-- ==== Sys2Proof/Word.lean ====
section
/-! DEFINITION. The word types of the block: wire bytes, payload values, command words (00_scope.md R8, R11;
30_encoding.md R81). -/

namespace Sys2Proof

/-- A wire byte, a counter, the opcode, the length byte or the checksum (R8). -/
abbrev Byte := BitVec 8

/-- A 16-bit payload value (R8). -/
abbrev Half := BitVec 16

/-- A 32-bit payload value, the `arg` field and the result port (R8, R81, R86). -/
abbrev Word32 := BitVec 32

/-- One item of the command port, `cmd[39:0]` (R81). -/
abbrev CmdWord := BitVec 40

end Sys2Proof
end

