-- ==== Sys2Proof/Syntax.lean ====
section
/-! DEFINITION. The operations of the block, one constructor per row of spec/opcode_table.json (30_encoding.md R80),
and the items its three ports take. -/

namespace Sys2Proof

/-- The block's operations. A burst (TX_WRITE_BYTES, TX_WRITE_TEXT) is its header followed by `n` DATA beats, each an
item of the command port and so each a term of its own (R88). -/
inductive Instr where
  /-- FEED b (R100). -/
  | feed (b : Byte)
  /-- RESET (R230). -/
  | reset
  /-- ACK (R141). -/
  | ack
  /-- REMAINING (R144). -/
  | remaining
  /-- READ_U8 (R145). -/
  | readU8
  /-- READ_U16 (R146). -/
  | readU16
  /-- READ_U32 (R147). -/
  | readU32
  /-- ADVANCE n (R148). -/
  | advance (n : Byte)
  /-- TX_BEGIN op8 (R171). -/
  | txBegin (op8 : Byte)
  /-- TX_SET_RESULT r (R172); `r = 3` is not well formed (R85). -/
  | txSetResult (r : BitVec 2)
  /-- TX_WRITE_U8 v (R173). -/
  | txWriteU8 (v : Byte)
  /-- TX_WRITE_U16 v (R174). -/
  | txWriteU16 (v : Half)
  /-- TX_WRITE_U32 v (R175). -/
  | txWriteU32 (v : Word32)
  /-- The header of TX_WRITE_BYTES n (R176, R88). -/
  | txWriteBytes (n : Byte)
  /-- The header of TX_WRITE_TEXT n (R177, R88). -/
  | txWriteText (n : Byte)
  /-- TX_SEND (R178). -/
  | txSend
  /-- A DATA beat (R88). -/
  | data (d : Byte)
  deriving DecidableEq, Repr

/-- What one port offers: the `rst` input, a byte of the RX byte port, or a 40-bit item of the command port (R81). -/
inductive Item where
  | rst
  | rx (b : Byte)
  | cmd (w : CmdWord)
  deriving DecidableEq, Repr

/-- Why a command-port item stands for no operation (R84, R85). Every one of them raises `ILLEGAL_OP` (R204). -/
inductive DecodeError where
  /-- `op` is marked illegal in R82 (R85). -/
  | undefinedOp (op : Byte)
  /-- The "other arg bits" of R82 are not all zero (R84). -/
  | reservedArgBits
  /-- TX_SET_RESULT with `r = 3` (R85). -/
  | reservedResult
  deriving DecidableEq, Repr

/-- What the decoder answers: an operation, or the reason there is none. -/
inductive Decoded where
  | ok (i : Instr)
  | rejected (e : DecodeError)
  deriving DecidableEq, Repr

end Sys2Proof
end

