-- ==== Sys2Proof/WellFormed.lean ====
section
/-! DEFINITION. Which terms of Instr the encoding admits. Every operand but the result code fills its field
(30_encoding.md R82, R83), so the one check is on TX_SET_RESULT. -/

namespace Sys2Proof

/-- The term has an encoding that is not illegal (R82, R85: `r = 3` is illegal). -/
def Instr.wf : Instr → Bool
  | .feed _ => true
  | .reset => true
  | .ack => true
  | .remaining => true
  | .readU8 => true
  | .readU16 => true
  | .readU32 => true
  | .advance _ => true
  | .txBegin _ => true
  | .txSetResult r => r != 3#2
  | .txWriteU8 _ => true
  | .txWriteU16 _ => true
  | .txWriteU32 _ => true
  | .txWriteBytes _ => true
  | .txWriteText _ => true
  | .txSend => true
  | .data _ => true

end Sys2Proof
end

