-- ==== Sys2Proof/Decode.lean ====
section
/-! DEFINITION. The decoder of the three ports, total on every item, the encoder, and the host's numbering of the opcode
table's words. -/

namespace Sys2Proof

/-- `op = cmd[39:32]` (R81). -/
def cmdOp (w : CmdWord) : Byte := w.extractLsb' 32 8

/-- `arg = cmd[31:0]` (R81). -/
def cmdArg (w : CmdWord) : Word32 := w.extractLsb' 0 32

/-- The command word of an `op` and an `arg` (R81). -/
def cmdWord (op : Byte) (arg : Word32) : CmdWord := op ++ arg

/-- The operand `arg[k-1:0]`, read as an unsigned number, where the other arg bits are zero (R83, R84). -/
def operand (k : Nat) (w : CmdWord) (build : BitVec k → Instr) : Decoded :=
  if (cmdArg w).toNat < 2 ^ k then .ok (build ((cmdArg w).setWidth k)) else .rejected .reservedArgBits

/-- The whole `arg` is the operand (TX_WRITE_U32, R82). -/
def fullOperand (w : CmdWord) (build : Word32 → Instr) : Decoded := .ok (build (cmdArg w))

/-- TX_SET_RESULT's operand: `r = arg[1:0]`, 3 illegal (R82, R85). -/
def resultOperand (w : CmdWord) : Decoded :=
  if (cmdArg w).toNat < 4 then
    if (cmdArg w).setWidth 2 = 3#2 then .rejected .reservedResult else .ok (.txSetResult ((cmdArg w).setWidth 2))
  else .rejected .reservedArgBits

/-- The operation a command-port item stands for (R82). -/
def decodeCmd (w : CmdWord) : Decoded :=
  match (cmdOp w).toNat with
  | 0x01 => operand 0 w fun _ => .ack
  | 0x02 => operand 0 w fun _ => .remaining
  | 0x03 => operand 0 w fun _ => .readU8
  | 0x04 => operand 0 w fun _ => .readU16
  | 0x05 => operand 0 w fun _ => .readU32
  | 0x06 => operand 8 w .advance
  | 0x10 => operand 8 w .txBegin
  | 0x11 => resultOperand w
  | 0x12 => operand 8 w .txWriteU8
  | 0x13 => operand 16 w .txWriteU16
  | 0x14 => fullOperand w .txWriteU32
  | 0x15 => operand 8 w .txWriteBytes
  | 0x16 => operand 8 w .txWriteText
  | 0x17 => operand 0 w fun _ => .txSend
  | 0xFF => operand 8 w .data
  | _ => .rejected (.undefinedOp (cmdOp w))

/-- The operation an item of any port stands for (R81): every byte of the RX byte port is a FEED, `rst` is RESET. -/
def decode : Item → Decoded
  | .rst => .ok .reset
  | .rx b => .ok (.feed b)
  | .cmd w => decodeCmd w

/-- The item of an operation, from the same table (R81, R82). -/
def encode : Instr → Item
  | .feed b => .rx b
  | .reset => .rst
  | .ack => .cmd (cmdWord 0x01 0)
  | .remaining => .cmd (cmdWord 0x02 0)
  | .readU8 => .cmd (cmdWord 0x03 0)
  | .readU16 => .cmd (cmdWord 0x04 0)
  | .readU32 => .cmd (cmdWord 0x05 0)
  | .advance n => .cmd (cmdWord 0x06 (n.setWidth 32))
  | .txBegin op8 => .cmd (cmdWord 0x10 (op8.setWidth 32))
  | .txSetResult r => .cmd (cmdWord 0x11 (r.setWidth 32))
  | .txWriteU8 v => .cmd (cmdWord 0x12 (v.setWidth 32))
  | .txWriteU16 v => .cmd (cmdWord 0x13 (v.setWidth 32))
  | .txWriteU32 v => .cmd (cmdWord 0x14 v)
  | .txWriteBytes n => .cmd (cmdWord 0x15 (n.setWidth 32))
  | .txWriteText n => .cmd (cmdWord 0x16 (n.setWidth 32))
  | .txSend => .cmd (cmdWord 0x17 0)
  | .data d => .cmd (cmdWord 0xFF (d.setWidth 32))

/-- The item the host's numbering of a table word stands for. A 40-bit row is a command-port item. The FEED and RESET
rows both have one byte, on two ports: the word 1 is RESET's single `rst` bit, and a row width of one bit is RESET's too;
every other byte is a FEED (DESIGN CHOICE, assumption 13). -/
def tableItem (nbits w : Nat) : Option Item :=
  if 2 ^ nbits ≤ w then none
  else if nbits = 1 then (if w = 1 then some .rst else none)
  else if nbits = 8 then (if w = 1 then some .rst else some (.rx (BitVec.ofNat 8 w)))
  else if nbits ≤ 40 then some (.cmd (BitVec.ofNat 40 w))
  else none

/-- The operation the decoder reads from a word of the opcode table; none where it rejects. -/
def decodeTableWord (nbits w : Nat) : Option Instr :=
  match tableItem nbits w with
  | none => none
  | some it =>
    match decode it with
    | .ok i => some i
    | .rejected _ => none

end Sys2Proof
end

