-- ==== Sys2Proof/Config.lean ====
section
/-! DEFINITION. What an implementation fixes (the two build-time capacities) and the free values of the model. -/

namespace Sys2Proof

/-- The two build-time parameters, each 0 to 255 (00_scope.md R6, R7; 92_eei_decisions.md D3, D4).
State carries them as plain data and no operation writes them (assumption 1). -/
structure Config where
  /-- `RX_CAPACITY` (R6). -/
  rxCapacity : Byte
  /-- `TX_CAPACITY` (R7). -/
  txCapacity : Byte
  deriving DecidableEq, Repr

/-- The capacities State.reset is given: those of the spec's test vectors, `RX_CAPACITY = TX_CAPACITY = 64`
(00_scope.md section 3). DESIGN CHOICE, assumption 1: no claim about any build. -/
def Config.vectors : Config := { rxCapacity := 64, txCapacity := 64 }

/-- The two payload buffers (20_memory.md R50). -/
inductive Space where
  | rx
  | tx
  deriving DecidableEq, Repr

/-- FREE VALUE (assumption 2): what byte `i` of a buffer holds before anything has written it, in the power cycle
or reset epoch `epoch`. 10_state.md R42 and 70_reset_and_hazards.md R230: "`RXBUF[*] <- any value`". -/
opaque Config.freeByte (space : Space) (epoch i : Nat) : Byte

end Sys2Proof
end

