-- ==== Sys2Proof/Machine/State.lean ====
section
/-! DEFINITION. The machine's state as plain data (10_state.md R20 to R36), the reasons a step can stop, and the state
after reset (R42). -/

namespace Sys2Proof.Machine

/-- `STATE` (R21), in the order of its codes 0 to 7. -/
inductive Phase where
  | idle
  | sync1
  | sync2
  | direction
  | length
  | payload
  | complete
  /-- Code 7: no operation produces it; a model that finds it faults (R21, I14). -/
  | reserved
  deriving DecidableEq, Repr

/-- `DIR` (R22). -/
inductive Direction where
  | command
  | reply
  deriving DecidableEq, Repr

/-- `TRES` (R32); its code 3 is never written, so it has no constructor. -/
inductive TxResult where
  | ok
  | error
  | unsupported
  deriving DecidableEq, Repr

/-- `FAULT` (R30, R204); codes 6 and 7 are never written, so they have no constructor. -/
inductive FaultCode where
  | none
  | rdOverrun
  | wrOverflow
  | rdNotReady
  | txNotArmed
  | illegalOp
  deriving DecidableEq, Repr

/-- One entry of the fault log, with the info R204 says a model records. -/
inductive FaultEntry where
  /-- `RD_OVERRUN`: the cursor and the count asked for. -/
  | rdOverrun (rcur : Byte) (n : Nat)
  /-- `WR_OVERFLOW`: `TLEN` and the count asked for. -/
  | wrOverflow (tlen : Byte) (n : Nat)
  /-- `RD_NOT_READY`: the parser's `STATE`. -/
  | rdNotReady (state : Phase)
  /-- `TX_NOT_ARMED`. -/
  | txNotArmed
  /-- `ILLEGAL_OP`: the command word (assumption 4 for a burst). -/
  | illegalOp (word : CmdWord)
  deriving DecidableEq, Repr

/-- A payload buffer: its written bytes, addresses strictly rising (Memory.wf). An index with no entry has not been
written since the last RESET and reads as a free value (assumption 2). -/
abbrev Memory := List Host.Cell

/-- The InboundMessage registers (R20 to R29). -/
structure Rx where
  /-- `STATE`. -/
  state : Phase
  /-- `DIR`. -/
  dir : Direction
  /-- `OPC`. -/
  opc : Byte
  /-- `ELEN`. -/
  elen : Byte
  /-- `RCNT`. -/
  rcnt : Byte
  /-- `RCUR`. -/
  rcur : Byte
  /-- `CSUM`. -/
  csum : Byte
  /-- `RXBUF`. -/
  rxbuf : Memory
  /-- `ACT`. -/
  act : Bool
  deriving DecidableEq, Repr

/-- The OutboundMessage registers (R31 to R35). -/
structure Tx where
  /-- `TOPC`. -/
  topc : Byte
  /-- `TRES`. -/
  tres : TxResult
  /-- `TLEN`. -/
  tlen : Byte
  /-- `TXBUF`. -/
  txbuf : Memory
  /-- `TARM`. -/
  tarm : Bool
  deriving DecidableEq, Repr

/-- Which of the two burst operations is open. -/
inductive BurstKind where
  | bytes
  | text
  deriving DecidableEq, Repr

/-- An open burst (30_encoding.md R88 to R91): its header's operation and count, and what its beats have brought. -/
structure Burst where
  kind : BurstKind
  /-- `n` of the header. -/
  count : Byte
  /-- The bytes of the beats taken so far, byte 0 first. -/
  beats : List Byte
  /-- A beat's other arg bits were not all zero (R89). -/
  bad : Bool
  deriving DecidableEq, Repr

/-- The response outputs `rsp_valid`, `rsp_data`, `rsp_fault` (R86) after the last command-port item (assumption 9). -/
structure Response where
  valid : Bool
  data : Word32
  fault : Bool
  deriving DecidableEq, Repr

/-- The inputs of one clock edge (R86). `rx_data` and `cmd` are the heads of the offers in Env. -/
structure Pins where
  rst : Bool
  rxValid : Bool
  cmdValid : Bool
  txReady : Bool
  deriving DecidableEq, Repr

/-- Who acts next (00_scope.md R9; assumption 6). -/
inductive Turn where
  /-- The environment applies RESET. -/
  | environment
  /-- The byte source offers its next byte. -/
  | source
  /-- The consumer issues its next command-port item. -/
  | consumer
  /-- One rising clock edge of the signal-level binding (30_encoding.md R87). -/
  | edge (p : Pins)
  deriving DecidableEq, Repr

/-- What the agents still offer, and the order in which they act (20_memory.md R62; assumption 6). -/
structure Env where
  /-- Bytes the transport holds for FEED, oldest first. -/
  rxIn : List Byte
  /-- Command words and data beats the consumer has still to issue, oldest first. -/
  cmdIn : List CmdWord
  /-- The agents' turns, next first. -/
  turns : List Turn
  deriving DecidableEq, Repr

/-- The machine's state. -/
structure State where
  /-- The build-time parameters (R6, R7); nothing writes them. -/
  cfg : Config
  /-- The inbound registers. -/
  rx : Rx
  /-- The outbound registers. -/
  tx : Tx
  /-- `FAULT` (R30). -/
  fault : FaultCode
  /-- Every fault so far, oldest first; no operation clears it (R10, R206). -/
  faultLog : List FaultEntry
  /-- `TX_OUT` (R36): every byte TX_SEND has emitted, oldest first. -/
  txOut : List Byte
  /-- The open burst, if one is (R88). -/
  burst : Option Burst
  /-- The response outputs (R86). -/
  rsp : Response
  /-- How many bytes at the end of `txOut` the transport sink has not taken yet; 0 but while TX_SEND is emitting at the
  signal level (R87; assumption 11). -/
  txPending : Nat
  /-- MODEL'S OWN: the epoch of the free buffer bytes, counted up by RESET (assumption 2). -/
  epoch : Nat
  /-- MODEL'S OWN: the environment's offers (assumption 6). -/
  env : Env
  deriving DecidableEq, Repr

/-- Why the machine stops. None of them is one of the block's own faults: those are next states (60_exceptions.md R205). -/
inductive Fault where
  /-- `STATE` holds code 7 and FEED or a read-port operation reads it (R21, I14). Safe: no reachable state has it. -/
  | reservedStateCode
  /-- An access to an `RXBUF` index at or above `RX_CAPACITY` (R28), by FEED or a READ. Safe: no reachable state does it. -/
  | rxIndexOutside (index : Nat)
  /-- A read of a `TXBUF` index at or above `TX_CAPACITY` (R34), by TX_SEND. Safe: no reachable state does it. -/
  | txIndexOutside (index : Nat)
  deriving DecidableEq, Repr

/-- Why a step has no meaning. -/
inductive Refusal where
  /-- An arm of exec that has no meaning yet. Safe. -/
  | notModelled (mnemonic : String)
  /-- A command word other than a DATA beat while a burst is open (R91): raised by every command-port operation but DATA,
  and by an item that stands for none. Safe. -/
  | burstInterrupted
  /-- RESET while TX_SEND is emitting (R10, R230). Safe. -/
  | resetDuringSend
  deriving DecidableEq, Repr

/-- The state after RESET and after power-on (R42, R231), for any two capacities, with nothing offered (assumption 20). -/
def State.initial (cfg : Config) : State where
  cfg := cfg
  rx := { state := .idle, dir := .command, opc := 0, elen := 0, rcnt := 0, rcur := 0, csum := 0, rxbuf := [], act := false }
  tx := { topc := 0, tres := .ok, tlen := 0, txbuf := [], tarm := false }
  fault := .none
  faultLog := []
  txOut := []
  burst := none
  rsp := { valid := false, data := 0, fault := false }
  txPending := 0
  epoch := 0
  env := { rxIn := [], cmdIn := [], turns := [] }

/-- The machine right after power-on, with the capacities of the spec's test vectors (assumption 1). -/
def State.reset : State := State.initial Config.vectors

end Sys2Proof.Machine
end

