-- ==== Sys2Proof/Machine/Flags.lean ====
section
/-! DEFINITION. The flags and the status view: codes of `STATE`, `DIR`, `TRES` and `FAULT`, the rules of `ACT` and
`FAULT`, the ready signals, and what the consumer sees (10_state.md R21, R22, R29, R30, R32, R40; 30_encoding.md R86). -/

namespace Sys2Proof.Machine

/-- The code of `STATE` (R21). -/
def Phase.code : Phase → BitVec 3
  | .idle => 0
  | .sync1 => 1
  | .sync2 => 2
  | .direction => 3
  | .length => 4
  | .payload => 5
  | .complete => 6
  | .reserved => 7

/-- The code of `DIR` (R22). -/
def Direction.code : Direction → BitVec 1
  | .command => 0
  | .reply => 1

/-- The code of `TRES` (R32). -/
def TxResult.code : TxResult → BitVec 2
  | .ok => 0
  | .error => 1
  | .unsupported => 2

/-- The result an operand `r` of TX_SET_RESULT names; none for the illegal 3 (R172). -/
def resultOfCode (r : BitVec 2) : Option TxResult :=
  if r = 0#2 then some .ok
  else if r = 1#2 then some .error
  else if r = 2#2 then some .unsupported
  else none

/-- The code of `FAULT` (R204). -/
def FaultCode.code : FaultCode → BitVec 3
  | .none => 0
  | .rdOverrun => 1
  | .wrOverflow => 2
  | .rdNotReady => 3
  | .txNotArmed => 4
  | .illegalOp => 5

/-- The fault a log entry records (R204). -/
def FaultEntry.fault : FaultEntry → FaultCode
  | .rdOverrun _ _ => .rdOverrun
  | .wrOverflow _ _ => .wrOverflow
  | .rdNotReady _ => .rdNotReady
  | .txNotArmed => .txNotArmed
  | .illegalOp _ => .illegalOp

/-- `FAULT` takes a new code only if it is 0 (R205, R209). -/
def firstFault (old new : FaultCode) : FaultCode := if old = .none then new else old

/-- The value of `ACT` after a FEED that leaves `STATE` at `p` (R112). -/
def actOf (p : Phase) : Bool := p != .idle

/-- `rx_ready`: `STATE != COMPLETE` (R40, R86). -/
def rxReady (s : State) : Bool := s.rx.state != .complete

/-- `cmd_ready`: 0 while TX_SEND is emitting, otherwise 1 (R86, R90). -/
def cmdReady (s : State) : Bool := s.txPending == 0

/-- `tx_valid`: the block offers a byte to the transport sink (R86). -/
def txValid (s : State) : Bool := s.txPending != 0

/-- The status view (R40). -/
structure StatusView where
  frameDone : Bool
  rxReady : Bool
  rxActive : Bool
  rxState : BitVec 3
  frameDir : BitVec 1
  frameOpcode : Byte
  frameLen : Byte
  rxCount : Byte
  rdCursor : Byte
  rxCsum : Byte
  fault : BitVec 3
  txArmed : Bool
  txLen : Byte
  deriving DecidableEq, Repr

/-- The status view of a state; reading it changes nothing (R40, R59). -/
def statusView (s : State) : StatusView where
  frameDone := s.rx.state == .complete
  rxReady := rxReady s
  rxActive := s.rx.act
  rxState := s.rx.state.code
  frameDir := s.rx.dir.code
  frameOpcode := s.rx.opc
  frameLen := s.rx.elen
  rxCount := s.rx.rcnt
  rdCursor := s.rx.rcur
  rxCsum := s.rx.csum
  fault := s.fault.code
  txArmed := s.tx.tarm
  txLen := s.tx.tlen

/-- The bytes the transport sink has taken (R36, R87): all of `TX_OUT` but those still pending. -/
def wireOut (s : State) : List Byte := s.txOut.take (s.txOut.length - s.txPending)

/-- The output ports (R86). -/
structure PortOutputs where
  rxReady : Bool
  rxActive : Bool
  cmdReady : Bool
  rspValid : Bool
  rspData : Word32
  rspFault : Bool
  txValid : Bool
  /-- `tx_data`; none where `tx_valid` is 0, whose value the spec does not give (assumption 18). -/
  txData : Option Byte
  status : StatusView
  deriving DecidableEq, Repr

/-- The output ports of a state (R86). -/
def portOutputs (s : State) : PortOutputs where
  rxReady := rxReady s
  rxActive := s.rx.act
  cmdReady := cmdReady s
  rspValid := s.rsp.valid
  rspData := s.rsp.data
  rspFault := s.rsp.fault
  txValid := txValid s
  txData := if txValid s then s.txOut[s.txOut.length - s.txPending]? else none
  status := statusView s

end Sys2Proof.Machine
end

