-- ==== Sys2Proof/Machine/Ops.lean ====
section
/-! DEFINITION. The named operations over the buffers and registers: reading and writing a buffer, taking a fault
(60_exceptions.md R205) and the release that ends it (R206), the response port, and the guards in the order of R207. -/

namespace Sys2Proof.Machine

/-- What a meaning answers. -/
abbrev Result := Host.Outcome State Fault Refusal

/-! ## Buffers (20_memory.md R50 to R52) -/

/-- What an index nothing has written holds as listed data: no byte. Its value is then the free one (assumption 2). -/
def Memory.unlisted : Option Byte := none

/-- The byte listed at an index. -/
def Memory.read? : Memory → Nat → Option Byte
  | [], _ => Memory.unlisted
  | c :: m, a => if c.1 = a then some c.2 else Memory.read? m a

/-- One byte written, the list kept in rising order. -/
def Memory.write : Memory → Nat → Byte → Memory
  | [], a, v => [(a, v)]
  | c :: m, a, v => if a < c.1 then (a, v) :: c :: m else if a = c.1 then (a, v) :: m else c :: Memory.write m a v

/-- `MemWrite` of several bytes at consecutive indices (R12). -/
def Memory.writeBytes : Memory → Nat → List Byte → Memory
  | m, _, [] => m
  | m, a, b :: bs => Memory.writeBytes (Memory.write m a b) (a + 1) bs

/-- The canonical form: addresses strictly rising. -/
abbrev Memory.wf (m : Memory) : Prop := m.Pairwise (fun c d => c.1 < d.1)

/-- `RXBUF[i]` (R12): the byte written, else the free value. -/
def rxByte (s : State) (i : Nat) : Byte := (s.rx.rxbuf.read? i).getD (Config.freeByte .rx s.epoch i)

/-- `TXBUF[i]` (R12): the byte written, else the free value. -/
def txByte (s : State) (i : Nat) : Byte := (s.tx.txbuf.read? i).getD (Config.freeByte .tx s.epoch i)

/-- `n` bytes of `RXBUF` from `addr` on. -/
def rxBytes (s : State) (addr n : Nat) : List Byte := (List.range n).map fun k => rxByte s (addr + k)

/-- The outbound payload `TXBUF[0..TLEN-1]`. -/
def txPayload (s : State) : List Byte := (List.range s.tx.tlen.toNat).map (txByte s)

/-! ## The response port and taking a fault -/

/-- The response of a command that completes: `rsp_valid`, the returned value or 0, no fault (R86). -/
def respond (v : Word32) (s : State) : State := { s with rsp := { valid := true, data := v, fault := false } }

/-- Taking a fault (R205, R209; a next state, assumption 3): only `FAULT` is written, and only if it is 0; the model's log gains the entry (R206); the
response says `rsp_fault = 1` with `rsp_data = 0`. -/
def raise (e : FaultEntry) (s : State) : State :=
  { s with
    fault := firstFault s.fault e.fault
    faultLog := s.faultLog ++ [e]
    rsp := { valid := true, data := 0, fault := true } }

/-- The same outcome for a data beat: beats give no `rsp_valid` pulse (R86; assumption 9). -/
def asBeat (s : State) : State := { s with rsp := { s.rsp with valid := false } }

/-- asBeat on an outcome. -/
def asBeatResult : Result → Result
  | .next s => .next (asBeat s)
  | .fault r => .fault r
  | .refused r => .refused r

/-- No response: the outputs after RESET, and at a clock edge that takes no command (assumption 9). -/
def clearResponse (s : State) : State := { s with rsp := { valid := false, data := 0, fault := false } }

/-- The inbound registers as ACK and RESET leave them, the buffer apart (R42). -/
def releaseRx (r : Rx) : Rx :=
  { r with state := .idle, dir := .command, opc := 0, elen := 0, rcnt := 0, rcur := 0, csum := 0, act := false }

/-- The outbound registers as ACK and RESET leave them, the buffer apart (R42). -/
def releaseTx (t : Tx) : Tx := { t with topc := 0, tres := .ok, tlen := 0, tarm := false }

/-- The end of a fault and of a frame (R206, R141): both message objects at their initial values, `FAULT` 0. -/
def release (s : State) : State := { s with rx := releaseRx s.rx, tx := releaseTx s.tx, fault := .none }

/-! ## The guards (R207) -/

/-- A command word other than a DATA beat inside an open burst is refused (30_encoding.md R91; assumption 16). -/
def outsideBurst (s : State) (k : Result) : Result := if s.burst.isSome then .refused .burstInterrupted else k

/-- ReadPortGuard (41_rx_payload_read.md R140). -/
def readPortGuard (s : State) (k : Result) : Result :=
  if s.rx.state = .complete then k
  else if s.rx.state = .reserved then .fault .reservedStateCode
  else .next (raise (.rdNotReady s.rx.state) s)

/-- The read bound, the sum without wrap (R145 to R148, R150). -/
def readBound (n : Nat) (s : State) (k : Result) : Result :=
  if s.rx.rcnt.toNat < s.rx.rcur.toNat + n then .next (raise (.rdOverrun s.rx.rcur n) s) else k

/-- TxGuard (42_tx_framer.md R170). -/
def txGuard (s : State) (k : Result) : Result := if s.tx.tarm then k else .next (raise .txNotArmed s)

/-- The write bound, the sum without wrap (R173 to R176). -/
def writeBound (n : Nat) (s : State) (k : Result) : Result :=
  if s.cfg.txCapacity.toNat < s.tx.tlen.toNat + n then .next (raise (.wrOverflow s.tx.tlen n) s) else k

end Sys2Proof.Machine
end

