-- ==== Sys2Proof/Machine/Operands.lean ====
section
/-! DEFINITION. The operand and data forms: little-endian values (20_memory.md R53), the tokens of the wire
(30_encoding.md R72), the checksum (R75), the wire frame (R70), and the shared read and write forms. -/

namespace Sys2Proof.Machine

/-! ## Little-endian values -/

/-- `b0 | b1 << 8 | ...`, zero-extended to 32 bits (R53, R77). -/
def leValue : List Byte → Word32
  | [] => 0
  | b :: bs => b.setWidth 32 ||| (leValue bs <<< 8)

/-- The `n` low bytes of a value, the least significant first (`MemWrite`, 00_scope.md R12). -/
def leBytes (n : Nat) (v : Word32) : List Byte := (List.range n).map fun k => v.extractLsb' (8 * k) 8

/-! ## The wire frame -/

/-- `'$'`, the first sync byte (R72). -/
def sync1Token : Byte := 0x24
/-- `'M'`, the second sync byte (R72). -/
def sync2Token : Byte := 0x4D
/-- `'<'`, inbound Command (R72). -/
def commandToken : Byte := 0x3C
/-- `'>'`, inbound Reply, outbound Ok and Unsupported (R72). -/
def replyToken : Byte := 0x3E
/-- `'!'`, outbound Error (R72). PRESUMED by the spec itself (00_scope.md R13, G1; assumption 14). -/
def errorToken : Byte := 0x21

/-- The XOR fold over length, opcode and payload (R75). -/
def checksum (len opc : Byte) (payload : List Byte) : Byte := payload.foldl (· ^^^ ·) (len ^^^ opc)

/-- A frame as it travels (R70, R71). -/
def wireFrame (dir len opc : Byte) (payload : List Byte) : List Byte :=
  [sync1Token, sync2Token, dir, len, opc] ++ payload ++ [checksum len opc payload]

/-- The direction byte TX_SEND emits (42_tx_framer.md R179). -/
def directionToken : TxResult → Byte
  | .ok => replyToken
  | .error => errorToken
  | .unsupported => replyToken

/-- The frame TX_SEND emits (R178, R180). -/
def outboundFrame (s : State) : List Byte := wireFrame (directionToken s.tx.tres) s.tx.tlen s.tx.topc (txPayload s)

/-! ## The read and write forms -/

/-- `RCUR <- RCUR + n`. -/
def advanceCursor (n : Nat) (s : State) : State :=
  { s with rx := { s.rx with rcur := BitVec.ofNat 8 (s.rx.rcur.toNat + n) } }

/-- READ_U8, READ_U16 and READ_U32, for `n` = 1, 2, 4 (41_rx_payload_read.md R145 to R147). An index outside `RXBUF`, which
no reachable state reads, is a named fault (assumption 8). -/
def readField (n : Nat) (s : State) : Result :=
  outsideBurst s <| readPortGuard s <| readBound n s <|
    if s.cfg.rxCapacity.toNat < s.rx.rcur.toNat + n then .fault (.rxIndexOutside (s.rx.rcur.toNat + n - 1))
    else .next (respond (leValue (rxBytes s s.rx.rcur.toNat n)) (advanceCursor n s))

/-- The bytes appended at `TLEN` (R173 to R176). -/
def appendBytes (ds : List Byte) (s : State) : State :=
  { s with
    tx := { s.tx with
      txbuf := s.tx.txbuf.writeBytes s.tx.tlen.toNat ds
      tlen := BitVec.ofNat 8 (s.tx.tlen.toNat + ds.length) } }

/-- A TX write of the bytes `ds`: TxGuard, the bound, then all of them (R173 to R176). -/
def writeField (ds : List Byte) (s : State) : Result :=
  txGuard s <| writeBound ds.length s <| .next (respond 0 (appendBytes ds s))

end Sys2Proof.Machine
end

