-- ==== Sys2Proof/Machine/RxFrameParser.lean ====
section
/-! DEFINITION. FEED (40_rx_frame_parser.md R100 to R112), one definition per state of the parser. -/

namespace Sys2Proof.Machine

/-- The parser moves to `p`, and `ACT` follows (R112). -/
def parserTo (p : Phase) (r : Rx) : Rx := { r with state := p, act := actOf p }

/-- FEED in `IDLE` (R102). -/
def feedIdle (b : Byte) (r : Rx) : Rx := if b = sync1Token then parserTo .sync1 r else parserTo .idle r

/-- FEED in `SYNC_1` (R103). -/
def feedSync1 (b : Byte) (r : Rx) : Rx := if b = sync2Token then parserTo .sync2 r else parserTo .idle r

/-- FEED in `SYNC_2`, the direction byte (R104). -/
def feedSync2 (b : Byte) (r : Rx) : Rx :=
  if b = commandToken then parserTo .direction { r with dir := .command }
  else if b = replyToken then parserTo .direction { r with dir := .reply }
  else parserTo .idle r

/-- FEED in `DIRECTION`, the length byte (R105, R106). -/
def feedDirection (rxCapacity b : Byte) (r : Rx) : Rx :=
  if b.toNat ≤ rxCapacity.toNat then parserTo .length { r with elen := b, rcnt := 0, rcur := 0, csum := b }
  else parserTo .idle r

/-- FEED in `LENGTH`, the opcode byte (R107). -/
def feedLength (b : Byte) (r : Rx) : Rx := parserTo .payload { r with opc := b, csum := r.csum ^^^ b }

/-- FEED of a payload byte (R108). -/
def feedPayloadByte (b : Byte) (r : Rx) : Rx :=
  parserTo .payload
    { r with
      rxbuf := r.rxbuf.write r.rcnt.toNat b
      csum := r.csum ^^^ b
      rcnt := BitVec.ofNat 8 (r.rcnt.toNat + 1) }

/-- FEED of the checksum byte (R109, R110). -/
def feedChecksum (b : Byte) (r : Rx) : Rx := if b = r.csum then parserTo .complete r else parserTo .idle r

/-- FEED in `PAYLOAD` (R108 to R110). A payload byte past `RXBUF`, which no reachable state stores, is a named fault
(assumption 8). -/
def feedPayload (b : Byte) (s : State) : Result :=
  if s.rx.rcnt.toNat < s.rx.elen.toNat then
    if s.rx.rcnt.toNat < s.cfg.rxCapacity.toNat then .next { s with rx := feedPayloadByte b s.rx }
    else .fault (.rxIndexOutside s.rx.rcnt.toNat)
  else .next { s with rx := feedChecksum b s.rx }

/-- FEED b (R100). In `COMPLETE` it stalls: no state changes, and the step leaves the byte with its source (R101;
assumption 5). An open burst does not hold it (assumption 17). -/
def execFeed (b : Byte) (s : State) : Result :=
  match s.rx.state with
  | .idle => .next { s with rx := feedIdle b s.rx }
  | .sync1 => .next { s with rx := feedSync1 b s.rx }
  | .sync2 => .next { s with rx := feedSync2 b s.rx }
  | .direction => .next { s with rx := feedDirection s.cfg.rxCapacity b s.rx }
  | .length => .next { s with rx := feedLength b s.rx }
  | .payload => feedPayload b s
  | .complete => .next s
  | .reserved => .fault .reservedStateCode

end Sys2Proof.Machine
end

