-- ==== Sys2Proof/Machine/RxReadPort.lean ====
section
/-! DEFINITION. The RX payload read port and the release of a frame (41_rx_payload_read.md R140 to R150). -/

namespace Sys2Proof.Machine

/-- ACK (R141): legal in every state; the buffers keep their bytes. -/
def execAck (s : State) : Result := outsideBurst s <| .next (respond 0 (release s))

/-- REMAINING (R144). Counters are subtracted as naturals (00_scope.md R11; assumption 19). -/
def execRemaining (s : State) : Result :=
  outsideBurst s <| readPortGuard s <|
    .next (respond (BitVec.ofNat 32 (s.rx.rcnt.toNat - s.rx.rcur.toNat)) s)

/-- READ_U8 (R145). -/
def execReadU8 (s : State) : Result := readField 1 s

/-- READ_U16 (R146). -/
def execReadU16 (s : State) : Result := readField 2 s

/-- READ_U32 (R147). -/
def execReadU32 (s : State) : Result := readField 4 s

/-- ADVANCE n (R148): the cursor moves and no byte is read. -/
def execAdvance (n : Byte) (s : State) : Result :=
  outsideBurst s <| readPortGuard s <| readBound n.toNat s <| .next (respond 0 (advanceCursor n.toNat s))

end Sys2Proof.Machine
end

