-- ==== Sys2Proof/Machine/System.lean ====
section
/-! DEFINITION. RESET (70_reset_and_hazards.md R230). -/

namespace Sys2Proof.Machine

/-- Both buffers hold any value: nothing listed, and a new epoch of free bytes (R42, R230; assumption 2). -/
def forgetBuffers (s : State) : State :=
  { s with rx := { s.rx with rxbuf := [] }, tx := { s.tx with txbuf := [] }, epoch := s.epoch + 1 }

/-- RESET (R230): taken in every state; it closes an open burst, and `TX_OUT` and the fault log stay. While TX_SEND is
emitting the run is refused (R10, R230; assumption 10). -/
def execReset (s : State) : Result :=
  if s.txPending = 0 then .next (clearResponse { forgetBuffers (release s) with burst := none })
  else .refused .resetDuringSend

end Sys2Proof.Machine
end

