-- ==== Sys2Proof/Machine/TxFramer.lean ====
section
/-! DEFINITION. The TX framer (42_tx_framer.md R170 to R183) and the bursts of the command port (30_encoding.md R88 to
R91). -/

namespace Sys2Proof.Machine

/-- The outbound registers after TX_BEGIN; `TXBUF` is not cleared (R171). -/
def beginTx (op8 : Byte) (t : Tx) : Tx := { t with topc := op8, tres := .ok, tlen := 0, tarm := true }

/-- TX_BEGIN op8 (R171). -/
def execTxBegin (op8 : Byte) (s : State) : Result :=
  outsideBurst s <| .next (respond 0 { s with tx := beginTx op8 s.tx })

/-- `TRES <- r`. -/
def setResult (r : TxResult) (s : State) : State := { s with tx := { s.tx with tres := r } }

/-- TX_SET_RESULT r (R172): `r = 3` raises `ILLEGAL_OP` before TxGuard (R207). -/
def execTxSetResult (r : BitVec 2) (s : State) : Result :=
  outsideBurst s <|
    match resultOfCode r with
    | none => .next (raise (.illegalOp (cmdWord 0x11 (r.setWidth 32))) s)
    | some res => txGuard s <| .next (respond 0 (setResult res s))

/-- TX_WRITE_U8 v (R173). -/
def execTxWriteU8 (v : Byte) (s : State) : Result := outsideBurst s <| writeField (leBytes 1 (v.setWidth 32)) s

/-- TX_WRITE_U16 v (R174). -/
def execTxWriteU16 (v : Half) (s : State) : Result := outsideBurst s <| writeField (leBytes 2 (v.setWidth 32)) s

/-- TX_WRITE_U32 v (R175). -/
def execTxWriteU32 (v : Word32) (s : State) : Result := outsideBurst s <| writeField (leBytes 4 v) s

/-- The header word of a burst (R88). -/
def burstHeader (k : BurstKind) (n : Byte) : CmdWord :=
  match k with
  | .bytes => cmdWord 0x15 (n.setWidth 32)
  | .text => cmdWord 0x16 (n.setWidth 32)

/-- The header of a burst of `n` bytes (R88): with `n = 0` the operation takes effect at once, else the burst opens. -/
def openBurst (k : BurstKind) (n : Byte) (s : State) : Result :=
  outsideBurst s <|
    if n = 0 then writeField [] s
    else .next (respond 0 { s with burst := some { kind := k, count := n, beats := [], bad := false } })

/-- TX_WRITE_BYTES n: its header (R176, R88). -/
def execTxWriteBytes (n : Byte) (s : State) : Result := openBurst .bytes n s

/-- TX_WRITE_TEXT n: its header (R177, R88). -/
def execTxWriteText (n : Byte) (s : State) : Result := openBurst .text n s

/-- The burst's operation, at its last beat (R176, R177): a bad beat raises `ILLEGAL_OP`, recorded with the header's word
(R89; assumption 4), else the bytes are written as one TX write. -/
def commitBurst (b : Burst) (s : State) : Result :=
  if b.bad then .next (raise (.illegalOp (burstHeader b.kind b.count)) s) else writeField b.beats s

/-- The beat `d` joins the burst. -/
def Burst.push (d : Byte) (bad : Bool) (b : Burst) : Burst := { b with beats := b.beats ++ [d], bad := b.bad || bad }

/-- One beat of an open burst (R88): the last one closes it and runs the operation. -/
def takeBeat (d : Byte) (bad : Bool) (b : Burst) (s : State) : Result :=
  if (b.push d bad).beats.length < b.count.toNat then
    .next (clearResponse { s with burst := some (b.push d bad) })
  else asBeatResult (commitBurst (b.push d bad) { s with burst := none })

/-- A DATA beat (R88); with no burst open it raises `ILLEGAL_OP` (R85, R89). -/
def execData (d : Byte) (s : State) : Result :=
  match s.burst with
  | none => .next (asBeat (raise (.illegalOp (cmdWord 0xFF (d.setWidth 32))) s))
  | some b => takeBeat d false b s

/-- TX_SEND (R178). A payload past `TXBUF`, which no reachable state holds, is a named fault (assumption 8). -/
def execTxSend (s : State) : Result :=
  outsideBurst s <| txGuard s <|
    if s.cfg.txCapacity.toNat < s.tx.tlen.toNat then .fault (.txIndexOutside (s.tx.tlen.toNat - 1))
    else .next (respond 0 { s with txOut := s.txOut ++ outboundFrame s, tx := { s.tx with tarm := false } })

/-- A command-port item that stands for no operation (R84, R85): outside a burst `ILLEGAL_OP`; inside one a beat with
other arg bits set counts as a bad beat (R89), and anything else is refused (R91). -/
def rejectWord (w : CmdWord) (s : State) : Result :=
  match s.burst with
  | none =>
    if cmdOp w = 0xFF then .next (asBeat (raise (.illegalOp w) s)) else .next (raise (.illegalOp w) s)
  | some b => if cmdOp w = 0xFF then takeBeat ((cmdArg w).setWidth 8) true b s else .refused .burstInterrupted

end Sys2Proof.Machine
end

