-- ==== Sys2Proof/Machine/Dispatch.lean ====
section
/-! DEFINITION. One arm per operation of the opcode table. -/

namespace Sys2Proof.Machine

def exec (i : Instr) (s : State) : Host.Outcome State Fault Refusal :=
  match i with
  | .feed b => Sys2Proof.Machine.execFeed b s
  | .reset => Sys2Proof.Machine.execReset s
  | .ack => Sys2Proof.Machine.execAck s
  | .remaining => Sys2Proof.Machine.execRemaining s
  | .readU8 => Sys2Proof.Machine.execReadU8 s
  | .readU16 => Sys2Proof.Machine.execReadU16 s
  | .readU32 => Sys2Proof.Machine.execReadU32 s
  | .advance n => Sys2Proof.Machine.execAdvance n s
  | .txBegin op8 => Sys2Proof.Machine.execTxBegin op8 s
  | .txSetResult r => Sys2Proof.Machine.execTxSetResult r s
  | .txWriteU8 v => Sys2Proof.Machine.execTxWriteU8 v s
  | .txWriteU16 v => Sys2Proof.Machine.execTxWriteU16 v s
  | .txWriteU32 v => Sys2Proof.Machine.execTxWriteU32 v s
  | .txWriteBytes n => Sys2Proof.Machine.execTxWriteBytes n s
  | .txWriteText n => Sys2Proof.Machine.execTxWriteText n s
  | .txSend => Sys2Proof.Machine.execTxSend s
  | .data d => Sys2Proof.Machine.execData d s

end Sys2Proof.Machine
end

