-- ==== Sys2Proof/Machine/Ports.lean ====
section
/-! DEFINITION. How operations reach the block: the turn of an agent (00_scope.md R9, 20_memory.md R62) and the clock edge
of the signal-level binding (30_encoding.md R86, R87; 60_exceptions.md R208). -/

namespace Sys2Proof.Machine

/-- One item taken from a port: the operation it stands for, or, on the command port, `ILLEGAL_OP` (R84, R85;
assumption 15). -/
def runItem (it : Item) (s : State) : Result :=
  match it with
  | .rst => exec .reset s
  | .rx b => exec (.feed b) s
  | .cmd w =>
    match decode (.cmd w) with
    | .ok i => exec i s
    | .rejected _ => rejectWord w s

/-- The byte source's head byte is handed over. -/
def dropByte (s : State) : State := { s with env := { s.env with rxIn := s.env.rxIn.tail } }

/-- The consumer's head item is handed over. -/
def dropWord (s : State) : State := { s with env := { s.env with cmdIn := s.env.cmdIn.tail } }

/-- The turn now being run is spent. -/
def dropTurn (s : State) : State := { s with env := { s.env with turns := s.env.turns.tail } }

/-- The byte source hands over its next byte, if it has one (R87). -/
def takeByte (s : State) : Result :=
  match s.env.rxIn with
  | [] => .next s
  | b :: _ => runItem (.rx b) (dropByte s)

/-- The consumer hands over its next item, if it has one (R87). -/
def takeWord (s : State) : Result :=
  match s.env.cmdIn with
  | [] => .next s
  | w :: _ => runItem (.cmd w) (dropWord s)

/-- The byte source's turn: while `rx_ready` is 0 the byte stays with its source, a stall (R101; assumption 5). -/
def sourceTurn (s : State) : Result := if rxReady s then takeByte s else .next s

/-- The consumer's turn: while `cmd_ready` is 0 the item stays with the consumer (R87; assumption 10). -/
def consumerTurn (s : State) : Result := if cmdReady s then takeWord s else .next s

/-- The transport sink takes the byte offered, if one is (R87). -/
def sinkTake (s : State) : State := { s with txPending := s.txPending - 1 }

/-- The bytes a command of this edge emitted are still to leave, one a handshake (R87; assumption 11). -/
def holdEmitted (before : State) : Result → Result
  | .next t => .next { t with txPending := t.txOut.length - before.txOut.length }
  | .fault r => .fault r
  | .refused r => .refused r

/-- What the sink and the command port do at an edge without `rst`; the ready signals are those before the edge. -/
def edgeCommand (p : Pins) (s : State) : Result :=
  let s1 := if p.txReady then sinkTake (clearResponse s) else clearResponse s
  if p.cmdValid && cmdReady s then holdEmitted s1 (takeWord s1) else .next s1

/-- One rising edge (R87, R208): `rst` wins and nothing else is taken; else the command-port item is ordered first and the
FEED second. The ready signals are those before the edge (assumption 12). -/
def clockEdge (p : Pins) (s : State) : Result :=
  if p.rst then runItem .rst s
  else
    match edgeCommand p s with
    | .next t => if p.rxValid && rxReady s then takeByte t else .next t
    | .fault r => .fault r
    | .refused r => .refused r

/-- The turn of one agent. -/
def runTurn (t : Turn) (s : State) : Result :=
  match t with
  | .environment => runItem .rst s
  | .source => sourceTurn s
  | .consumer => consumerTurn s
  | .edge p => clockEdge p s

/-- The next turn; with none left no agent acts and nothing changes (70_reset_and_hazards.md R245). -/
def nextTurn (s : State) : Result :=
  match s.env.turns with
  | [] => .next s
  | t :: _ => runTurn t (dropTurn s)

/-- An item placed at the head of its port's offers, with its agent's turn next. -/
def offer (it : Item) (s : State) : State :=
  match it with
  | .rst => { s with env := { s.env with turns := .environment :: s.env.turns } }
  | .rx b => { s with env := { s.env with rxIn := b :: s.env.rxIn, turns := .source :: s.env.turns } }
  | .cmd w => { s with env := { s.env with cmdIn := w :: s.env.cmdIn, turns := .consumer :: s.env.turns } }

/-- The table's word, offered on its port; a word that is none of the table's leaves the state as it is. -/
def offerTableWord (nbits w : Nat) (s : State) : State :=
  match tableItem nbits w with
  | some it => offer it s
  | none => s

end Sys2Proof.Machine
end

