-- ==== Sys2Proof/Machine/Step.lean ====
section
/-! DEFINITION. One step of the machine: the next turn of the agents (00_scope.md R9, R10). -/

namespace Sys2Proof.Machine

/-- One step: the next agent's turn. Its outcomes are a next state (the block's own faults and stalls among them), a fault
of the model and a refusal. -/
def step (s : State) : Host.Outcome State Fault Refusal := nextTurn s

/-- `s` with the opcode table's word `w` offered on its port, its agent's turn being the next. -/
def State.withFetchWord (s : State) (nbits w : Nat) : State := offerTableWord nbits w s

end Sys2Proof.Machine
end

