-- ==== Sys2Proof/Safety.lean ====
section
/-! DEFINITION. What counts as a safe state and a safe run: the invariants of 10_state.md R37, R38 and 40_rx_frame_parser.md
R114, the frame of a fault (60_exceptions.md R205), sequences of operations, and the agents' duties
(70_reset_and_hazards.md R245). -/

namespace Sys2Proof.Machine

/-! ## Invariants -/

/-- "`RCUR <= RCNT <= ELEN <= RX_CAPACITY`, and `STATE` is one of the codes 0–6" (R37). -/
structure CursorBounds (s : State) : Prop where
  rcur_le_rcnt : s.rx.rcur.toNat ≤ s.rx.rcnt.toNat
  rcnt_le_elen : s.rx.rcnt.toNat ≤ s.rx.elen.toNat
  elen_le_capacity : s.rx.elen.toNat ≤ s.cfg.rxCapacity.toNat
  state_legal : s.rx.state ≠ .reserved

/-- "`TLEN <= TX_CAPACITY`" (R38). -/
def WriteCursorBound (s : State) : Prop := s.tx.tlen.toNat ≤ s.cfg.txCapacity.toNat

/-- Both buffers are in canonical form and list no index outside them (R28, R34). -/
structure BuffersCanonical (s : State) : Prop where
  rx_wf : s.rx.rxbuf.wf
  tx_wf : s.tx.txbuf.wf
  rx_inside : ∀ c ∈ s.rx.rxbuf, c.1 < s.cfg.rxCapacity.toNat
  tx_inside : ∀ c ∈ s.tx.txbuf, c.1 < s.cfg.txCapacity.toNat

/-- Every byte an operation can read has been written: no free value is read (R28, R34). -/
structure BuffersWritten (s : State) : Prop where
  rx_written : ∀ i < s.rx.rcnt.toNat, (s.rx.rxbuf.read? i).isSome
  tx_written : ∀ i < s.tx.tlen.toNat, (s.tx.txbuf.read? i).isSome

/-- An open burst still awaits a beat (30_encoding.md R88). -/
def BurstAwaitsBeat (s : State) : Prop := ∀ b, s.burst = some b → b.beats.length < b.count.toNat

/-- A nonzero `FAULT` is the code of a fault in the log (R205, R206). -/
def FaultIsLogged (s : State) : Prop := s.fault ≠ .none → ∃ e ∈ s.faultLog, e.fault = s.fault

/-- The invariant of the machine. -/
structure MachineInv (s : State) : Prop where
  cursors : CursorBounds s
  writeCursor : WriteCursorBound s
  canonical : BuffersCanonical s
  written : BuffersWritten s
  burst : BurstAwaitsBeat s
  logged : FaultIsLogged s
  pending : s.txPending ≤ s.txOut.length

/-- The running checksum and the flags follow the frame (R27, R112, R114). -/
structure FrameInv (s : State) : Prop where
  act_iff_active : s.rx.act = decide (s.rx.state ≠ .idle)
  header : s.rx.state = .length → s.rx.csum = s.rx.elen ∧ s.rx.rcnt = 0 ∧ s.rx.rcur = 0
  folded : s.rx.state = .payload ∨ s.rx.state = .complete →
    s.rx.csum = (rxBytes s 0 s.rx.rcnt.toNat).foldl (· ^^^ ·) (s.rx.elen ^^^ s.rx.opc)
  unread : s.rx.state = .payload → s.rx.rcur = 0
  full : s.rx.state = .complete → s.rx.rcnt = s.rx.elen

/-! ## Faults -/

/-- All that a faulting operation must leave alone (R205): every register but `FAULT`, both buffers and `TX_OUT`, with the
parameters and the environment. -/
structure OnlyFaultWritten (s t : State) : Prop where
  cfg : t.cfg = s.cfg
  rx : t.rx = s.rx
  tx : t.tx = s.tx
  txOut : t.txOut = s.txOut
  txPending : t.txPending = s.txPending
  epoch : t.epoch = s.epoch
  env : t.env = s.env

/-- The operation faulted with the entry `e` and did nothing else (R205): `FAULT` keeps a first code, the log gains `e`, and
the response says so. -/
structure Faulted (e : FaultEntry) (s t : State) : Prop where
  register : t.fault = if s.fault = .none then e.fault else s.fault
  log : t.faultLog = s.faultLog ++ [e]
  rspFault : t.rsp.fault = true
  rspData : t.rsp.data = 0
  frame : OnlyFaultWritten s t

/-- No contract violation has happened (R206: the log, which no operation clears). -/
def NoFault (s : State) : Prop := s.faultLog = []

/-! ## Sequences of operations -/

/-- The operations in order, stopping at the first that gives no next state. -/
def execAll : List Instr → State → Result
  | [], s => .next s
  | i :: is, s =>
    match exec i s with
    | .next t => execAll is t
    | .fault r => .fault r
    | .refused r => .refused r

/-- One FEED per byte, left to right (30_encoding.md R92). -/
def feedAll (bs : List Byte) (s : State) : Result := execAll (bs.map .feed) s

/-- The items of the command port in order. -/
def issueAll : List CmdWord → State → Result
  | [], s => .next s
  | w :: ws, s =>
    match runItem (.cmd w) s with
    | .next t => issueAll ws t
    | .fault r => .fault r
    | .refused r => .refused r

/-- A change of the next state. -/
def onNext (f : State → State) : Result → Result
  | .next t => .next (f t)
  | .fault r => .fault r
  | .refused r => .refused r

/-- A burst: its header and one beat a byte (R88). -/
def burstOps (k : BurstKind) (ds : List Byte) : List Instr :=
  (match k with
    | .bytes => .txWriteBytes (BitVec.ofNat 8 ds.length)
    | .text => .txWriteText (BitVec.ofNat 8 ds.length)) :: ds.map .data

/-- The operations of the read port (R140). -/
def isReadPort : Instr → Bool
  | .remaining | .readU8 | .readU16 | .readU32 | .advance _ => true
  | .feed _ | .reset | .ack | .txBegin _ | .txSetResult _ | .txWriteU8 _ | .txWriteU16 _ | .txWriteU32 _
  | .txWriteBytes _ | .txWriteText _ | .txSend | .data _ => false

/-- The operations of the TX framer (R170, R171), the beats among them. -/
def isTx : Instr → Bool
  | .txBegin _ | .txSetResult _ | .txWriteU8 _ | .txWriteU16 _ | .txWriteU32 _ | .txWriteBytes _ | .txWriteText _
  | .txSend | .data _ => true
  | .feed _ | .reset | .ack | .remaining | .readU8 | .readU16 | .readU32 | .advance _ => false

/-- The operations that check `TARM` when they are taken (R170): all TX operations but TX_BEGIN, and of the bursts the
header with no beat. -/
def needsArmed : Instr → Bool
  | .txSetResult r => r != 3#2
  | .txWriteU8 _ | .txWriteU16 _ | .txWriteU32 _ | .txSend => true
  | .txWriteBytes n | .txWriteText n => n == 0
  | .txBegin _ | .data _ | .feed _ | .reset | .ack | .remaining | .readU8 | .readU16 | .readU32 | .advance _ => false

/-! ## The agents' duties -/

/-- The byte source waits: a byte is offered and `rx_ready` is 0 (R101); a run that stays here is a hang of the source. -/
def FeedStalled (s : State) : Prop := s.rx.state = .complete ∧ s.env.rxIn ≠ []

/-- The consumer's contract for a held frame (41_rx_payload_read.md R142, R234, R235, R237): a Command frame is answered
and then released, a Reply frame only released. `build` is what the handler writes. -/
def answer (s : State) (build : List Instr) : List Instr :=
  match s.rx.dir with
  | .command => .txBegin s.rx.opc :: build ++ [.txSend, .ack]
  | .reply => [.ack]

/-- The response of a consumer that finds no handler (42_tx_framer.md R181). -/
def notFound : List Instr := [.txSetResult 2#2]

end Sys2Proof.Machine
end

