-- ==== Sys2Proof/Certificates/Slice0/Obligations.lean ====
section
/-! DEFINITION. The statements for the provers. -/

open Sys2Proof Sys2Proof.Machine

/-! ## Encodings -/

/-- Words written out from 30_encoding.md R82 decode to the operations they stand for; `r = 3`, a set reserved bit and an
undefined `op` are rejected. -/
def Obligations.SampleWordsDecode : Prop :=
  decode (.cmd 0x0100000000#40) = .ok .ack ∧
  decode (.cmd 0x0400000000#40) = .ok .readU16 ∧
  decode (.cmd 0x06000000A5#40) = .ok (.advance 0xA5#8) ∧
  decode (.cmd 0x1100000002#40) = .ok (.txSetResult 2#2) ∧
  decode (.cmd 0x130000ABCD#40) = .ok (.txWriteU16 0xABCD#16) ∧
  decode (.cmd 0x1411223344#40) = .ok (.txWriteU32 0x11223344#32) ∧
  decode (.cmd 0x1500000003#40) = .ok (.txWriteBytes 3#8) ∧
  decode (.cmd 0xFF0000002A#40) = .ok (.data 0x2A#8) ∧
  decode (.rx 0x24#8) = .ok (.feed 0x24#8) ∧
  decode .rst = .ok .reset ∧
  decode (.cmd 0x1100000003#40) = .rejected .reservedResult ∧
  decode (.cmd 0x0600000103#40) = .rejected .reservedArgBits ∧
  decode (.cmd 0x0700000000#40) = .rejected (.undefinedOp 0x07#8)

/-- R81 to R83: decoding the encoding of a well-formed operation gives it back, with every operand at every value. -/
def Obligations.DecodeInvertsEncode : Prop :=
  ∀ i : Instr, i.wf = true → decode (encode i) = .ok i

/-- R81 to R85: each item has at most one meaning: an item that decodes is the encoding of a well-formed operation. -/
def Obligations.EncodeInvertsDecode : Prop :=
  ∀ (it : Item) (i : Instr), decode it = .ok i → encode i = it ∧ i.wf = true

/-- R82, R84, R85: a word is rejected as undefined exactly where its `op` is marked illegal, for its result exactly at
TX_SET_RESULT 3, and for its other arg bits exactly where the table's "other arg bits" are not all zero. -/
def Obligations.RejectedWordsAreTheIllegalOnes : Prop :=
  ∀ w : CmdWord,
    (decode (.cmd w) = .rejected (.undefinedOp (cmdOp w)) ↔
      (cmdOp w = 0x00 ∨ (0x07 ≤ (cmdOp w).toNat ∧ (cmdOp w).toNat ≤ 0x0F) ∨
        (0x18 ≤ (cmdOp w).toNat ∧ (cmdOp w).toNat ≤ 0xFE))) ∧
    (decode (.cmd w) = .rejected .reservedResult ↔ w = 0x1100000003#40) ∧
    (decode (.cmd w) = .rejected .reservedArgBits ↔
      ((cmdOp w ∈ [0x01#8, 0x02#8, 0x03#8, 0x04#8, 0x05#8, 0x17#8] ∧ cmdArg w ≠ 0) ∨
        (cmdOp w ∈ [0x06#8, 0x10#8, 0x12#8, 0x15#8, 0x16#8, 0xFF#8] ∧ 2 ^ 8 ≤ (cmdArg w).toNat) ∨
        (cmdOp w = 0x11 ∧ 2 ^ 2 ≤ (cmdArg w).toNat) ∨
        (cmdOp w = 0x13 ∧ 2 ^ 16 ≤ (cmdArg w).toNat)))

/-! ## Steps -/

/-- A step runs the item its turn takes, with that item and the turn spent; while the port is not ready the item stays
with its agent (R87, R101); an agent with nothing to offer, and a step with no turn left, change nothing but the turn; an
item that decodes to no operation raises `ILLEGAL_OP` (R84, R85), or inside a burst is a beat or refused (R89, R91); at a
clock edge with `rst` the RESET is performed and nothing else (R208 (a)). The turns are the model's (assumption 6), and so is
the step that an illegal word takes (assumptions 15, 16). -/
def Obligations.StepRunsTakenItem : Prop :=
  ∀ (s : State) (ts : List Turn),
    (s.env.turns = [] → step s = .next s) ∧
    (s.env.turns = .environment :: ts → step s = exec .reset { s with env := { s.env with turns := ts } }) ∧
    (∀ b bs, s.env.turns = .source :: ts → s.env.rxIn = b :: bs → s.rx.state ≠ .complete →
      step s = exec (.feed b) { s with env := { s.env with rxIn := bs, turns := ts } }) ∧
    (s.env.turns = .source :: ts → s.rx.state = .complete ∨ s.env.rxIn = [] →
      step s = .next { s with env := { s.env with turns := ts } }) ∧
    (∀ w ws i, s.env.turns = .consumer :: ts → s.env.cmdIn = w :: ws → s.txPending = 0 → decode (.cmd w) = .ok i →
      step s = exec i { s with env := { s.env with cmdIn := ws, turns := ts } }) ∧
    (∀ w ws e, s.env.turns = .consumer :: ts → s.env.cmdIn = w :: ws → s.txPending = 0 →
      decode (.cmd w) = .rejected e →
      step s = rejectWord w { s with env := { s.env with cmdIn := ws, turns := ts } } ∧
      (s.burst = none → ∃ t, step s = .next t ∧
        Faulted (.illegalOp w) { s with env := { s.env with cmdIn := ws, turns := ts } } t) ∧
      (s.burst.isSome = true → cmdOp w ≠ 0xFF → step s = .refused .burstInterrupted)) ∧
    (s.env.turns = .consumer :: ts → s.txPending ≠ 0 ∨ s.env.cmdIn = [] →
      step s = .next { s with env := { s.env with turns := ts } }) ∧
    (∀ p, s.env.turns = .edge p :: ts → p.rst = true →
      step s = exec .reset { s with env := { s.env with turns := ts } })

/-- R84 and R85: with no burst open, a command word whose other arg bits are not all zero, one whose `op` is marked illegal,
TX_SET_RESULT with `r = 3` and a DATA beat each raise `ILLEGAL_OP` and have no other effect. -/
def Obligations.IllegalItemRaisesIllegalOp : Prop :=
  ∀ (w : CmdWord) (s : State), s.burst = none →
    (cmdOp w ∈ [0x01#8, 0x02#8, 0x03#8, 0x04#8, 0x05#8, 0x17#8] ∧ cmdArg w ≠ 0) ∨
    (cmdOp w ∈ [0x06#8, 0x10#8, 0x12#8, 0x15#8, 0x16#8] ∧ 2 ^ 8 ≤ (cmdArg w).toNat) ∨
    (cmdOp w = 0x11 ∧ 2 ^ 2 ≤ (cmdArg w).toNat) ∨
    (cmdOp w = 0x13 ∧ 2 ^ 16 ≤ (cmdArg w).toNat) ∨
    cmdOp w = 0x00 ∨ (0x07 ≤ (cmdOp w).toNat ∧ (cmdOp w).toNat ≤ 0x0F) ∨
    (0x18 ≤ (cmdOp w).toNat ∧ (cmdOp w).toNat ≤ 0xFE) ∨
    w = 0x1100000003#40 ∨ cmdOp w = 0xFF →
    ∃ t, runItem (.cmd w) s = .next t ∧ Faulted (.illegalOp w) s t ∧ t.burst = none

/-! ## FEED -/

/-- R102 and R103: the two sync bytes. -/
def Obligations.FeedSyncBytes : Prop :=
  ∀ (b : Byte) (s : State),
    (s.rx.state = .idle → b = 0x24 →
      exec (.feed b) s = .next { s with rx := { s.rx with state := .sync1, act := true } }) ∧
    (s.rx.state = .idle → b ≠ 0x24 →
      exec (.feed b) s = .next { s with rx := { s.rx with state := .idle, act := false } }) ∧
    (s.rx.state = .sync1 → b = 0x4D →
      exec (.feed b) s = .next { s with rx := { s.rx with state := .sync2, act := true } }) ∧
    (s.rx.state = .sync1 → b ≠ 0x4D →
      exec (.feed b) s = .next { s with rx := { s.rx with state := .idle, act := false } })

/-- R104: the direction byte. -/
def Obligations.FeedDirectionByte : Prop :=
  ∀ (b : Byte) (s : State), s.rx.state = .sync2 →
    (b = 0x3C →
      exec (.feed b) s = .next { s with rx := { s.rx with dir := .command, state := .direction, act := true } }) ∧
    (b = 0x3E →
      exec (.feed b) s = .next { s with rx := { s.rx with dir := .reply, state := .direction, act := true } }) ∧
    (b ≠ 0x3C → b ≠ 0x3E →
      exec (.feed b) s = .next { s with rx := { s.rx with state := .idle, act := false } })

/-- R105 and R106: the length byte, accepted or oversized. -/
def Obligations.FeedLengthByte : Prop :=
  ∀ (b : Byte) (s : State), s.rx.state = .direction →
    (b.toNat ≤ s.cfg.rxCapacity.toNat →
      exec (.feed b) s = .next
        { s with rx := { s.rx with elen := b, rcnt := 0, rcur := 0, csum := b, state := .length, act := true } }) ∧
    (s.cfg.rxCapacity.toNat < b.toNat →
      exec (.feed b) s = .next { s with rx := { s.rx with state := .idle, act := false } })

/-- R107: the opcode byte. -/
def Obligations.FeedOpcodeByte : Prop :=
  ∀ (b : Byte) (s : State), s.rx.state = .length →
    exec (.feed b) s = .next
      { s with rx := { s.rx with opc := b, csum := s.rx.csum ^^^ b, state := .payload, act := true } }

/-- R108: a payload byte is stored at `RXBUF[RCNT]`, folded and counted; every other byte of the buffer reads as before. The
premise `ELEN <= RX_CAPACITY` is R37's. -/
def Obligations.FeedPayloadByte : Prop :=
  ∀ (b : Byte) (s : State), s.rx.state = .payload → s.rx.rcnt.toNat < s.rx.elen.toNat →
    s.rx.elen.toNat ≤ s.cfg.rxCapacity.toNat →
    ∃ t, exec (.feed b) s = .next t ∧
      t = { s with rx := { s.rx with
        rxbuf := t.rx.rxbuf, csum := s.rx.csum ^^^ b, rcnt := s.rx.rcnt + 1, act := true } } ∧
      t.rx.rcnt.toNat = s.rx.rcnt.toNat + 1 ∧
      rxByte t s.rx.rcnt.toNat = b ∧
      ∀ j, j ≠ s.rx.rcnt.toNat → rxByte t j = rxByte s j

/-- R109 and R110: the checksum byte. -/
def Obligations.FeedChecksumByte : Prop :=
  ∀ (b : Byte) (s : State), s.rx.state = .payload → s.rx.rcnt = s.rx.elen →
    (b = s.rx.csum →
      exec (.feed b) s = .next { s with rx := { s.rx with state := .complete, act := true } }) ∧
    (b ≠ s.rx.csum →
      exec (.feed b) s = .next { s with rx := { s.rx with state := .idle, act := false } })

/-- R101: in `COMPLETE` `rx_ready` is 0, FEED changes nothing, the byte stays with its source, and no operation but ACK and
RESET leaves `COMPLETE`. The stall as a step that only spends its turn is the model's (assumption 5). -/
def Obligations.FeedStallsUntilAckOrReset : Prop :=
  ∀ s : State, s.rx.state = .complete →
    rxReady s = false ∧
    (∀ b, exec (.feed b) s = .next s) ∧
    (∀ ts, s.env.turns = .source :: ts → step s = .next { s with env := { s.env with turns := ts } }) ∧
    (∀ i t, exec i s = .next t → t.rx.state ≠ .complete → i = .ack ∨ i = .reset)

/-- R112: after a FEED that does not stall, `ACT` is 1 exactly where the new `STATE` is not `IDLE`. -/
def Obligations.FeedSetsAct : Prop :=
  ∀ (b : Byte) (s t : State), s.rx.state ≠ .complete → exec (.feed b) s = .next t →
    (t.rx.act = true ↔ t.rx.state ≠ .idle)

/-- R39: a FEED that drops a frame changes only `STATE` and `ACT`. -/
def Obligations.FramingErrorKeepsRegisters : Prop :=
  ∀ (b : Byte) (s t : State), s.rx.state ≠ .idle → exec (.feed b) s = .next t → t.rx.state = .idle →
    t = { s with rx := { s.rx with state := .idle, act := false } }

/-- The frame of FEED (R51, R63, R123): nothing outside the inbound registers, and of `RXBUF` at most the byte at `RCNT`. -/
def Obligations.FeedFrame : Prop :=
  ∀ (b : Byte) (s t : State), exec (.feed b) s = .next t →
    t = { s with rx := t.rx } ∧
    (∀ j, (s.rx.state ≠ .payload ∨ j ≠ s.rx.rcnt.toNat) → rxByte t j = rxByte s j) ∧
    (s.rx.state ≠ .sync2 → t.rx.dir = s.rx.dir) ∧
    (s.rx.state ≠ .length → t.rx.opc = s.rx.opc) ∧
    (s.rx.state ≠ .direction → t.rx.elen = s.rx.elen ∧ t.rx.rcur = s.rx.rcur) ∧
    (s.rx.state ≠ .direction → s.rx.state ≠ .payload → t.rx.rcnt = s.rx.rcnt) ∧
    (s.rx.state ≠ .direction → s.rx.state ≠ .payload → s.rx.state ≠ .length → t.rx.csum = s.rx.csum)

/-! ## The buffers over all operations -/

/-- R28, R51: a byte of `RXBUF` changes only by a FEED in `PAYLOAD`, at the index `RCNT`; RESET, whose bytes are any values,
apart. -/
def Obligations.RxBufferWrittenByFeedOnly : Prop :=
  ∀ (i : Instr) (s t : State) (j : Nat), i ≠ .reset → exec i s = .next t → rxByte t j ≠ rxByte s j →
    (∃ b, i = .feed b) ∧ s.rx.state = .payload ∧ j = s.rx.rcnt.toNat ∧ s.rx.rcnt.toNat < s.rx.elen.toNat

/-- R34, R52: a byte of `TXBUF` changes only by a TX write or by the last beat of a burst, at an index from the old `TLEN`
to the new one; RESET apart. -/
def Obligations.TxBufferWrittenByTxWritesOnly : Prop :=
  ∀ (i : Instr) (s t : State) (j : Nat), i ≠ .reset → exec i s = .next t → txByte t j ≠ txByte s j →
    ((∃ v, i = .txWriteU8 v) ∨ (∃ v, i = .txWriteU16 v) ∨ (∃ v, i = .txWriteU32 v) ∨ (∃ d, i = .data d)) ∧
    s.tx.tlen.toNat ≤ j ∧ j < t.tx.tlen.toNat ∧ t.tx.tlen.toNat ≤ s.cfg.txCapacity.toNat

/-! ## ACK and the read port -/

/-- R141: ACK completes in every state with no burst open: both message objects at their initial values, `FAULT` 0, the
buffers as they were. With `arg != 0` it raises `ILLEGAL_OP`, and inside an open burst it is refused. -/
def Obligations.AckReleasesFrame : Prop :=
  ∀ s : State,
    (s.burst = none →
      exec .ack s = .next
        { s with
          rx := { state := .idle, dir := .command, opc := 0, elen := 0, rcnt := 0, rcur := 0, csum := 0,
                  rxbuf := s.rx.rxbuf, act := false }
          tx := { topc := 0, tres := .ok, tlen := 0, txbuf := s.tx.txbuf, tarm := false }
          fault := .none
          rsp := { valid := true, data := 0, fault := false } }) ∧
    (s.burst = none → ∀ arg, arg ≠ 0 →
      ∃ t, runItem (.cmd (cmdWord 0x01 arg)) s = .next t ∧ Faulted (.illegalOp (cmdWord 0x01 arg)) s t) ∧
    (s.burst.isSome = true → exec .ack s = .refused .burstInterrupted)

/-- R140: a read-port operation outside `COMPLETE` raises `RD_NOT_READY` and does nothing else, whatever its count. -/
def Obligations.ReadPortNeedsComplete : Prop :=
  ∀ (i : Instr) (s : State), isReadPort i = true → s.burst = none → s.rx.state ≠ .complete → s.rx.state ≠ .reserved →
    ∃ t, exec i s = .next t ∧ Faulted (.rdNotReady s.rx.state) s t ∧ t.burst = none

/-- R144: REMAINING in `COMPLETE` returns `RCNT - RCUR`, zero-extended, and changes nothing else. The premise is R37's. -/
def Obligations.RemainingReturnsUnreadCount : Prop :=
  ∀ s : State, s.burst = none → s.rx.state = .complete → s.rx.rcur.toNat ≤ s.rx.rcnt.toNat →
    exec .remaining s = .next
      { s with rsp := { valid := true, data := (s.rx.rcnt - s.rx.rcur).setWidth 32, fault := false } }

/-- R145 to R147: a READ within the bound returns the little-endian field at `RCUR`, zero-extended, and moves `RCUR` past it.
The premise `RCNT <= RX_CAPACITY` is R37's. -/
def Obligations.ReadReturnsLittleEndianField : Prop :=
  ∀ s : State, s.burst = none → s.rx.state = .complete → s.rx.rcnt.toNat ≤ s.cfg.rxCapacity.toNat →
    let b := fun k => rxByte s (s.rx.rcur.toNat + k)
    (s.rx.rcur.toNat + 1 ≤ s.rx.rcnt.toNat →
      exec .readU8 s = .next
        { s with rx := { s.rx with rcur := s.rx.rcur + 1 }
                 rsp := { valid := true, data := (b 0).setWidth 32, fault := false } }) ∧
    (s.rx.rcur.toNat + 2 ≤ s.rx.rcnt.toNat →
      exec .readU16 s = .next
        { s with rx := { s.rx with rcur := s.rx.rcur + 2 }
                 rsp := { valid := true, data := (b 1 ++ b 0).setWidth 32, fault := false } }) ∧
    (s.rx.rcur.toNat + 4 ≤ s.rx.rcnt.toNat →
      exec .readU32 s = .next
        { s with rx := { s.rx with rcur := s.rx.rcur + 4 }
                 rsp := { valid := true, data := b 3 ++ b 2 ++ b 1 ++ b 0, fault := false } })

/-- R148: ADVANCE within the bound, the sum taken without wrap, moves `RCUR` by `n` and reads no byte. -/
def Obligations.AdvanceMovesCursor : Prop :=
  ∀ (n : Byte) (s : State), s.burst = none → s.rx.state = .complete →
    s.rx.rcur.toNat + n.toNat ≤ s.rx.rcnt.toNat →
    exec (.advance n) s = .next
      { s with rx := { s.rx with rcur := s.rx.rcur + n }, rsp := { valid := true, data := 0, fault := false } } ∧
    (s.rx.rcur + n).toNat = s.rx.rcur.toNat + n.toNat

/-- R150: past `RCNT` a READ or ADVANCE raises `RD_OVERRUN`, with `RCUR` and every buffer byte unchanged. -/
def Obligations.ReadPastReceivedFaults : Prop :=
  ∀ (i : Instr) (n : Nat) (s : State),
    (i = .readU8 ∧ n = 1) ∨ (i = .readU16 ∧ n = 2) ∨ (i = .readU32 ∧ n = 4) ∨
      (∃ m : Byte, i = .advance m ∧ n = m.toNat) →
    s.burst = none → s.rx.state = .complete → s.rx.rcnt.toNat < s.rx.rcur.toNat + n →
    ∃ t, exec i s = .next t ∧ Faulted (.rdOverrun s.rx.rcur n) s t ∧ t.burst = none

/-- R149: no read-port operation writes a receive register but `RCUR`, which moves only forward, nor anything else but the
fault register, its log and the response. -/
def Obligations.ReadPortFrame : Prop :=
  ∀ (i : Instr) (s t : State), isReadPort i = true → exec i s = .next t →
    t.rx = { s.rx with rcur := t.rx.rcur } ∧ s.rx.rcur.toNat ≤ t.rx.rcur.toNat ∧
    t = { s with rx := t.rx, fault := t.fault, faultLog := t.faultLog, rsp := t.rsp }

/-! ## The TX framer -/

/-- R170: the TX operations that need an armed message raise `TX_NOT_ARMED` where `TARM` is 0, whatever else holds. -/
def Obligations.TxNeedsArmed : Prop :=
  ∀ (i : Instr) (s : State), needsArmed i = true → s.burst = none → s.tx.tarm = false →
    ∃ t, exec i s = .next t ∧ Faulted .txNotArmed s t ∧ t.burst = none

/-- R170: no TX operation reads or writes a receive-side register, and none depends on `STATE`. -/
def Obligations.TxIgnoresReceiveSide : Prop :=
  ∀ (i : Instr) (s : State) (r : Rx), isTx i = true →
    exec i { s with rx := r } = onNext (fun t => { t with rx := r }) (exec i s) ∧
    ∀ t, exec i s = .next t → t.rx = s.rx

/-- R171: TX_BEGIN completes with no burst open, armed or not: a fresh message of opcode `op8`. -/
def Obligations.TxBeginStartsMessage : Prop :=
  ∀ (op8 : Byte) (s : State), s.burst = none →
    exec (.txBegin op8) s = .next
      { s with tx := { topc := op8, tres := .ok, tlen := 0, txbuf := s.tx.txbuf, tarm := true }
               rsp := { valid := true, data := 0, fault := false } }

/-- R172, R32: TX_SET_RESULT stores the result whose code is its operand; the illegal 3 raises `ILLEGAL_OP`, armed or not. -/
def Obligations.TxSetResultStores : Prop :=
  ∀ s : State, s.burst = none →
    (∀ (r : BitVec 2) (res : TxResult),
      (r = 0#2 ∧ res = .ok) ∨ (r = 1#2 ∧ res = .error) ∨ (r = 2#2 ∧ res = .unsupported) → s.tx.tarm = true →
      exec (.txSetResult r) s = .next
        { s with tx := { s.tx with tres := res }, rsp := { valid := true, data := 0, fault := false } } ∧
      res.code = r) ∧
    (∃ t, exec (.txSetResult 3#2) s = .next t ∧ Faulted (.illegalOp 0x1100000003#40) s t ∧ t.burst = none)

/-- R173 to R175: a TX write that fits stores its bytes little-endian from `TLEN` on and moves `TLEN` past them; every other
byte of `TXBUF` reads as before. -/
def Obligations.TxWriteAppendsField : Prop :=
  ∀ (i : Instr) (ds : List Byte) (s : State),
    (∃ v : Byte, i = .txWriteU8 v ∧ ds = [v]) ∨
    (∃ v : Half, i = .txWriteU16 v ∧ ds = [v.extractLsb' 0 8, v.extractLsb' 8 8]) ∨
    (∃ v : Word32, i = .txWriteU32 v ∧
      ds = [v.extractLsb' 0 8, v.extractLsb' 8 8, v.extractLsb' 16 8, v.extractLsb' 24 8]) →
    s.burst = none → s.tx.tarm = true → s.tx.tlen.toNat + ds.length ≤ s.cfg.txCapacity.toNat →
    ∃ t, exec i s = .next t ∧
      t = { s with tx := { s.tx with txbuf := t.tx.txbuf, tlen := t.tx.tlen }
                   rsp := { valid := true, data := 0, fault := false } } ∧
      t.tx.tlen.toNat = s.tx.tlen.toNat + ds.length ∧
      (∀ k < ds.length, some (txByte t (s.tx.tlen.toNat + k)) = ds[k]?) ∧
      (∀ j, j < s.tx.tlen.toNat ∨ s.tx.tlen.toNat + ds.length ≤ j → txByte t j = txByte s j)

/-- R173 to R175: a TX write that does not fit raises `WR_OVERFLOW` and stores none of its bytes. -/
def Obligations.TxWriteOverflowStoresNothing : Prop :=
  ∀ (i : Instr) (n : Nat) (s : State),
    (∃ v, i = .txWriteU8 v ∧ n = 1) ∨ (∃ v, i = .txWriteU16 v ∧ n = 2) ∨ (∃ v, i = .txWriteU32 v ∧ n = 4) →
    s.burst = none → s.tx.tarm = true → s.cfg.txCapacity.toNat < s.tx.tlen.toNat + n →
    ∃ t, exec i s = .next t ∧ Faulted (.wrOverflow s.tx.tlen n) s t ∧ t.burst = none

/-- R88: a header of `n > 0` opens the burst and does nothing else; a beat before the last joins it and does nothing else.
An empty burst that is armed and within the bound completes at its header with no effect. -/
def Obligations.BurstOpensAndCollects : Prop :=
  ∀ s : State,
    (∀ n : Byte, s.burst = none → n ≠ 0 →
      exec (.txWriteBytes n) s = .next
        { s with burst := some { kind := .bytes, count := n, beats := [], bad := false }
                 rsp := { valid := true, data := 0, fault := false } } ∧
      exec (.txWriteText n) s = .next
        { s with burst := some { kind := .text, count := n, beats := [], bad := false }
                 rsp := { valid := true, data := 0, fault := false } }) ∧
    (s.burst = none → s.tx.tarm = true → s.tx.tlen.toNat ≤ s.cfg.txCapacity.toNat →
      exec (.txWriteBytes 0) s = .next { s with rsp := { valid := true, data := 0, fault := false } } ∧
      exec (.txWriteText 0) s = .next { s with rsp := { valid := true, data := 0, fault := false } }) ∧
    (∀ (d : Byte) (b : Burst), s.burst = some b → b.beats.length + 1 < b.count.toNat →
      exec (.data d) s = .next
        { s with burst := some { b with beats := b.beats ++ [d] }
                 rsp := { valid := false, data := 0, fault := false } })

/-- R88, R176, R177: a burst of up to 255 bytes is one transaction. Until its last item neither the outbound registers nor
`FAULT` change; at the last it stores all its bytes, or faults `TX_NOT_ARMED` or `WR_OVERFLOW` with none stored. -/
def Obligations.BurstIsOneTransaction : Prop :=
  ∀ (k : BurstKind) (ds : List Byte) (s : State), ds.length ≤ 255 → s.burst = none →
    (∀ m, 0 < m → m < (burstOps k ds).length →
      ∃ t, execAll ((burstOps k ds).take m) s = .next t ∧ t = { s with burst := t.burst, rsp := t.rsp } ∧
        t.burst.isSome = true) ∧
    (s.tx.tarm = false →
      ∃ t, execAll (burstOps k ds) s = .next t ∧ Faulted .txNotArmed s t ∧ t.burst = none) ∧
    (s.tx.tarm = true → s.cfg.txCapacity.toNat < s.tx.tlen.toNat + ds.length →
      ∃ t, execAll (burstOps k ds) s = .next t ∧ Faulted (.wrOverflow s.tx.tlen ds.length) s t ∧ t.burst = none) ∧
    (s.tx.tarm = true → s.tx.tlen.toNat + ds.length ≤ s.cfg.txCapacity.toNat →
      ∃ t, execAll (burstOps k ds) s = .next t ∧
        t = { s with tx := { s.tx with txbuf := t.tx.txbuf, tlen := t.tx.tlen }, rsp := t.rsp } ∧
        t.tx.tlen.toNat = s.tx.tlen.toNat + ds.length ∧
        (∀ j < ds.length, some (txByte t (s.tx.tlen.toNat + j)) = ds[j]?) ∧
        (∀ j, j < s.tx.tlen.toNat ∨ s.tx.tlen.toNat + ds.length ≤ j → txByte t j = txByte s j))

/-- R89: a DATA beat with no burst open raises `ILLEGAL_OP`; a burst one of whose beats has other arg bits set raises
`ILLEGAL_OP` at its end and writes nothing. -/
def Obligations.BadBeatSpoilsBurst : Prop :=
  (∀ (w : CmdWord) (s : State), s.burst = none → cmdOp w = 0xFF →
    ∃ t, runItem (.cmd w) s = .next t ∧ Faulted (.illegalOp w) s t ∧ t.burst = none) ∧
  (∀ (b : Burst) (ws : List CmdWord) (s : State), s.burst = some b →
    b.beats.length + ws.length = b.count.toNat → ws ≠ [] → (∀ w ∈ ws, cmdOp w = 0xFF) →
    (b.bad = true ∨ ∃ w ∈ ws, 2 ^ 8 ≤ (cmdArg w).toNat) →
    ∃ t e, issueAll ws s = .next t ∧ Faulted e s t ∧ e.fault = .illegalOp ∧ t.burst = none)

/-- R91: while a burst is open, an item of the command port other than a DATA beat is refused. -/
def Obligations.CommandInsideBurstRefused : Prop :=
  ∀ (w : CmdWord) (s : State), s.burst.isSome = true → cmdOp w ≠ 0xFF →
    runItem (.cmd w) s = .refused .burstInterrupted

/-- R178 to R180, R183: TX_SEND appends one frame of `TLEN + 6` bytes to `TX_OUT` and disarms; everything else stays. The
premise `TLEN <= TX_CAPACITY` is R38's; the byte 0x21 is general knowledge (00_scope.md R13, assumption 14). -/
def Obligations.TxSendEmitsFrame : Prop :=
  ∀ s : State, s.burst = none → s.tx.tarm = true → s.tx.tlen.toNat ≤ s.cfg.txCapacity.toNat →
    let payload := (List.range s.tx.tlen.toNat).map (txByte s)
    let frame := [0x24, 0x4D, (if s.tx.tres = .error then 0x21 else 0x3E), s.tx.tlen, s.tx.topc] ++ payload ++
      [payload.foldl (· ^^^ ·) (s.tx.tlen ^^^ s.tx.topc)]
    exec .txSend s = .next
      { s with txOut := s.txOut ++ frame, tx := { s.tx with tarm := false }
               rsp := { valid := true, data := 0, fault := false } } ∧
    frame.length = s.tx.tlen.toNat + 6

/-- R36: `TX_OUT` is appended to by TX_SEND only; at every step, the clock edge's among them, it only grows. -/
def Obligations.TxOutAppendOnly : Prop :=
  (∀ (i : Instr) (s t : State), exec i s = .next t → t.txOut ≠ s.txOut → i = .txSend) ∧
  (∀ s t : State, step s = .next t → s.txOut <+: t.txOut)

/-- The frame of the TX operations (R170): the parameters, the receive side, the pending bytes, the epoch and the
environment stay; only TX_BEGIN writes `TOPC` and sets `TARM`, only TX_BEGIN and TX_SET_RESULT write `TRES`, only TX_SEND
clears `TARM`. -/
def Obligations.TxFrame : Prop :=
  ∀ (i : Instr) (s t : State), isTx i = true → exec i s = .next t →
    t = { s with tx := t.tx, fault := t.fault, faultLog := t.faultLog, txOut := t.txOut, burst := t.burst, rsp := t.rsp } ∧
    ((∀ op8, i ≠ .txBegin op8) → t.tx.topc = s.tx.topc) ∧
    ((∀ op8, i ≠ .txBegin op8) → (∀ r, i ≠ .txSetResult r) → t.tx.tres = s.tx.tres) ∧
    ((∀ op8, i ≠ .txBegin op8) → i ≠ .txSend → t.tx.tarm = s.tx.tarm)

/-- R142, R181: a consumer that finds no handler for the Command frame it holds answers with the empty `'>'` frame of that
opcode and releases the block: `TX_OUT` gains `24 4D 3E 00 OPC OPC`, and the parser is in `IDLE`. -/
def Obligations.NotFoundAnswered : Prop :=
  ∀ s : State, s.burst = none → s.rx.state = .complete → s.rx.dir = .command →
    ∃ t, execAll (answer s notFound) s = .next t ∧
      t.txOut = s.txOut ++ [0x24, 0x4D, 0x3E, 0x00, s.rx.opc, s.rx.opc] ∧
      t.rx.state = .idle ∧ t.tx.tarm = false ∧ t.fault = .none ∧ t.faultLog = s.faultLog

/-! ## Faults over all operations -/

/-- R205: an operation that adds to the fault log adds one entry and writes nothing but `FAULT`, which keeps its first
code. -/
def Obligations.FaultWritesOnlyFaultRegister : Prop :=
  ∀ (i : Instr) (s t : State), exec i s = .next t → t.faultLog ≠ s.faultLog → ∃ e, Faulted e s t

/-- R206: only ACK and RESET clear `FAULT`, and no step ever shortens or changes the fault log. -/
def Obligations.FaultClearedByAckOrResetOnly : Prop :=
  (∀ (i : Instr) (s t : State), s.fault ≠ .none → exec i s = .next t → t.fault ≠ s.fault →
    (i = .ack ∨ i = .reset) ∧ t.fault = .none) ∧
  (∀ s t : State, step s = .next t → s.faultLog <+: t.faultLog)

/-- R207: of the faults that apply to one operation the first of `ILLEGAL_OP`, then `RD_NOT_READY` or `TX_NOT_ARMED`, then
the bound is reported; for a burst, at its last beat. -/
def Obligations.FaultPriority : Prop :=
  ∀ (w : CmdWord) (s : State),
    (s.burst = none → ∀ e, decode (.cmd w) = .rejected e →
      ∃ t, runItem (.cmd w) s = .next t ∧ Faulted (.illegalOp w) s t) ∧
    (s.burst = none → ∀ i, decode (.cmd w) = .ok i → isReadPort i = true → s.rx.state ≠ .complete →
      s.rx.state ≠ .reserved → ∃ t, runItem (.cmd w) s = .next t ∧ Faulted (.rdNotReady s.rx.state) s t) ∧
    (s.burst = none → ∀ i, decode (.cmd w) = .ok i → needsArmed i = true → s.tx.tarm = false →
      ∃ t, runItem (.cmd w) s = .next t ∧ Faulted .txNotArmed s t) ∧
    (∀ b, s.burst = some b → cmdOp w = 0xFF → b.count.toNat ≤ b.beats.length + 1 →
      (b.bad = true ∨ 2 ^ 8 ≤ (cmdArg w).toNat →
        ∃ t e, runItem (.cmd w) s = .next t ∧ Faulted e s t ∧ e.fault = .illegalOp) ∧
      (b.bad = false → (cmdArg w).toNat < 2 ^ 8 → s.tx.tarm = false →
        ∃ t, runItem (.cmd w) s = .next t ∧ Faulted .txNotArmed s t)) ∧
    (∀ i t e, decode (.cmd w) = .ok i → runItem (.cmd w) s = .next t → t.faultLog = s.faultLog ++ [e] →
      (e.fault = .rdOverrun → isReadPort i = true ∧ s.rx.state = .complete) ∧
      (e.fault = .wrOverflow → isTx i = true ∧ s.tx.tarm = true))

/-- The stops of the model: `STATE` code 7 where FEED or the read port reads it (R21), and an index past a buffer in FEED, in
a READ and in TX_SEND. They are the model's (assumptions 7 and 8). -/
def Obligations.UnreachableStops : Prop :=
  ∀ s : State,
    (s.rx.state = .reserved → ∀ b, exec (.feed b) s = .fault .reservedStateCode) ∧
    (s.rx.state = .reserved → s.burst = none → ∀ i, isReadPort i = true → exec i s = .fault .reservedStateCode) ∧
    (s.rx.state = .payload → s.rx.rcnt.toNat < s.rx.elen.toNat → s.cfg.rxCapacity.toNat ≤ s.rx.rcnt.toNat →
      ∀ b, exec (.feed b) s = .fault (.rxIndexOutside s.rx.rcnt.toNat)) ∧
    (∀ i n, (i = .readU8 ∧ n = 1) ∨ (i = .readU16 ∧ n = 2) ∨ (i = .readU32 ∧ n = 4) →
      s.rx.state = .complete → s.burst = none → s.rx.rcur.toNat + n ≤ s.rx.rcnt.toNat →
      s.cfg.rxCapacity.toNat < s.rx.rcur.toNat + n →
      exec i s = .fault (.rxIndexOutside (s.rx.rcur.toNat + n - 1))) ∧
    (s.burst = none → s.tx.tarm = true → s.cfg.txCapacity.toNat < s.tx.tlen.toNat →
      exec .txSend s = .fault (.txIndexOutside (s.tx.tlen.toNat - 1)))

/-! ## Reset -/

/-- R230: RESET completes in every state but while a send is emitting: every register at its R42 value, the buffers at any
value, an open burst closed, `TX_OUT` kept, `rx_ready` and `cmd_ready` 1. While a send is emitting the run is refused. That a
send is emitting while bytes are pending is assumption 10, and that RESET keeps the agents' offers is assumption 20. -/
def Obligations.ResetRestoresRegisters : Prop :=
  ∀ s : State,
    (s.txPending = 0 →
      ∃ t, exec .reset s = .next t ∧
        t.rx = { state := .idle, dir := .command, opc := 0, elen := 0, rcnt := 0, rcur := 0, csum := 0,
                 rxbuf := t.rx.rxbuf, act := false } ∧
        t.tx = { topc := 0, tres := .ok, tlen := 0, txbuf := t.tx.txbuf, tarm := false } ∧
        t.fault = .none ∧ t.burst = none ∧ t.txOut = s.txOut ∧ t.faultLog = s.faultLog ∧ t.cfg = s.cfg ∧
        t.env = s.env ∧ rxReady t = true ∧ cmdReady t = true) ∧
    (s.txPending ≠ 0 → exec .reset s = .refused .resetDuringSend)

/-- R42, R231, R232: the registers after power-on, whatever the capacities, and the signals they give. After power-on and
after RESET each byte of the buffers is a free value of its own; that form of "any value" is the model's (assumption 2), and
so is the response after RESET (assumption 9). -/
def Obligations.PowerOnValues : Prop :=
  (∀ c : Config,
    (State.initial c).rx = { state := .idle, dir := .command, opc := 0, elen := 0, rcnt := 0, rcur := 0, csum := 0,
                             rxbuf := [], act := false } ∧
    (State.initial c).tx = { topc := 0, tres := .ok, tlen := 0, txbuf := [], tarm := false } ∧
    (State.initial c).fault = .none ∧
    (statusView (State.initial c)).frameDone = false ∧ (statusView (State.initial c)).rxReady = true ∧
    ∀ j, rxByte (State.initial c) j = Config.freeByte .rx 0 j ∧ txByte (State.initial c) j = Config.freeByte .tx 0 j) ∧
  (∀ s t : State, exec .reset s = .next t → t.rsp.valid = false ∧
    ∀ j, rxByte t j = Config.freeByte .rx (s.epoch + 1) j ∧ txByte t j = Config.freeByte .tx (s.epoch + 1) j)

/-- R40 with the codes of R21, R22 and R204: every field of the status view, by value, in every state; the ports give the same
(R86). R143: at `COMPLETE` it presents the frame's header, and `rx_count` is `ELEN`. -/
def Obligations.StatusViewShowsRegisters : Prop :=
  ∀ s : State,
    let v := statusView s
    (v.frameDone = true ↔ s.rx.state = .complete) ∧
    (v.rxReady = true ↔ s.rx.state ≠ .complete) ∧
    v.rxActive = s.rx.act ∧
    (s.rx.state, v.rxState) ∈ [(Phase.idle, 0#3), (.sync1, 1#3), (.sync2, 2#3), (.direction, 3#3), (.length, 4#3),
      (.payload, 5#3), (.complete, 6#3), (.reserved, 7#3)] ∧
    (s.rx.dir, v.frameDir) ∈ [(Direction.command, 0#1), (.reply, 1#1)] ∧
    v.frameOpcode = s.rx.opc ∧ v.frameLen = s.rx.elen ∧ v.rxCount = s.rx.rcnt ∧ v.rdCursor = s.rx.rcur ∧
    v.rxCsum = s.rx.csum ∧
    (s.fault, v.fault) ∈ [(FaultCode.none, 0#3), (.rdOverrun, 1#3), (.wrOverflow, 2#3), (.rdNotReady, 3#3),
      (.txNotArmed, 4#3), (.illegalOp, 5#3)] ∧
    v.txArmed = s.tx.tarm ∧ v.txLen = s.tx.tlen ∧
    (portOutputs s).status = v ∧ (portOutputs s).rxReady = v.rxReady ∧ (portOutputs s).rxActive = v.rxActive ∧
    (FrameInv s → s.rx.state = .complete → v.rxCount = s.rx.elen)

/-! ## Invariants -/

/-- The invariants hold after power-on, whatever the capacities. -/
def Obligations.PowerOnInvariants : Prop :=
  ∀ c : Config, MachineInv (State.initial c) ∧ FrameInv (State.initial c)

/-- R37, R38, R122: every step keeps the machine's invariant: the cursors within their bounds, `STATE` legal, both buffers
canonical, inside their capacities and written where they can be read. -/
def Obligations.StepKeepsInvariant : Prop :=
  ∀ s t : State, MachineInv s → step s = .next t → MachineInv t

/-- R114 as an invariant of every step: while a frame is in `PAYLOAD` or `COMPLETE`, `CSUM` is the XOR fold of length, opcode
and the bytes received; at `COMPLETE` all of them are; `ACT` is 0 exactly in `IDLE`. -/
def Obligations.StepKeepsChecksum : Prop :=
  ∀ s t : State, MachineInv s → FrameInv s → step s = .next t → FrameInv t

/-- From a state that meets the invariants no step stops with a fault of the model: only a refusal can end a run. -/
def Obligations.InvariantStepNeverStops : Prop :=
  ∀ (s : State) (r : Fault), MachineInv s → step s ≠ .fault r

/-! ## Whole frames -/

/-- R115: a well-formed frame fed to a parser in `IDLE` is accepted, every FEED of it returning 1. -/
def Obligations.WellFormedFrameAccepted : Prop :=
  ∀ (s : State) (len opc : Byte) (dir : Direction) (payload : List Byte),
    s.rx.state = .idle → payload.length = len.toNat → len.toNat ≤ s.cfg.rxCapacity.toNat →
    let frame := [0x24, 0x4D, (if dir = .command then 0x3C else 0x3E), len, opc] ++ payload ++
      [payload.foldl (· ^^^ ·) (len ^^^ opc)]
    (∃ t, feedAll frame s = .next t ∧ t.rx.state = .complete ∧ t.rx.dir = dir ∧ t.rx.opc = opc ∧ t.rx.elen = len ∧
      t.rx.rcnt = len ∧ t.rx.rcur = 0 ∧ (∀ i < len.toNat, some (rxByte t i) = payload[i]?) ∧ t = { s with rx := t.rx }) ∧
    (∀ k, 0 < k → k ≤ frame.length → ∃ t, feedAll (frame.take k) s = .next t ∧ t.rx.act = true)

/-- R182: what TX_SEND emits for `Ok` or `Unsupported`, fed to any parser in `IDLE` with room for it, is accepted as a Reply
with the same opcode, length and payload; an `Error` frame is rejected at its direction byte (0x21, assumption 14) and one that is
too long at its length byte. -/
def Obligations.RoundTrip : Prop :=
  ∀ s r : State, s.burst = none → s.tx.tarm = true → s.tx.tlen.toNat ≤ s.cfg.txCapacity.toNat → r.rx.state = .idle →
    ∃ t frame, exec .txSend s = .next t ∧ t.txOut = s.txOut ++ frame ∧
      (s.tx.tres ≠ .error → s.tx.tlen.toNat ≤ r.cfg.rxCapacity.toNat →
        ∃ u, feedAll frame r = .next u ∧ u.rx.state = .complete ∧ u.rx.dir = .reply ∧ u.rx.opc = s.tx.topc ∧
          u.rx.elen = s.tx.tlen ∧ ∀ i < s.tx.tlen.toNat, rxByte u i = txByte s i) ∧
      (s.tx.tres = .error → ∃ u, feedAll (frame.take 3) r = .next u ∧ u.rx.state = .idle) ∧
      (s.tx.tres ≠ .error → r.cfg.rxCapacity.toNat < s.tx.tlen.toNat →
        ∃ u, feedAll (frame.take 4) r = .next u ∧ u.rx.state = .idle)

/-- R117: from any state but `IDLE` and `COMPLETE`, at most `RX_CAPACITY + 5` FEEDs bring the parser to `IDLE` or
`COMPLETE`, whatever the bytes. -/
def Obligations.FrameAttemptBounded : Prop :=
  ∀ (s : State) (bs : List Byte), MachineInv s → s.rx.state ≠ .idle → s.rx.state ≠ .complete →
    bs.length = s.cfg.rxCapacity.toNat + 5 →
    ∃ k t, k ≤ bs.length ∧ feedAll (bs.take k) s = .next t ∧ (t.rx.state = .idle ∨ t.rx.state = .complete)

/-- R120: one flipped bit of the opcode or of one payload byte of a valid frame makes the parser return to `IDLE` at the
checksum byte. -/
def Obligations.BitFlipRejected : Prop :=
  ∀ (s : State) (len opc opc' : Byte) (dir : Direction) (payload payload' : List Byte) (bit : Nat),
    s.rx.state = .idle → payload.length = len.toNat → len.toNat ≤ s.cfg.rxCapacity.toNat → bit < 8 →
    (opc' = opc ^^^ BitVec.twoPow 8 bit ∧ payload' = payload) ∨
      (opc' = opc ∧ ∃ i b, payload[i]? = some b ∧ payload' = payload.set i (b ^^^ BitVec.twoPow 8 bit)) →
    ∃ t u, feedAll ([0x24, 0x4D, (if dir = .command then 0x3C else 0x3E), len, opc'] ++ payload') s = .next t ∧
      t.rx.state = .payload ∧
      exec (.feed (payload.foldl (· ^^^ ·) (len ^^^ opc))) t = .next u ∧ u.rx.state = .idle

/-- R116, R118, R119: a `'$' 'M'` that arrives outside `IDLE` never leaves the parser at `SYNC_1` or `SYNC_2`. In those two
states its frame is lost; in `DIRECTION`, `LENGTH` and `PAYLOAD` the two bytes are a length, an opcode, payload or a checksum.
And from `DIRECTION` the bytes 00, `o`, `o` complete a frame of opcode `o`, so no byte of theirs forces `IDLE`. The premises
on `RX_CAPACITY` and `ELEN` are R37's. -/
def Obligations.NoResynchronisationInsideFrame : Prop :=
  ∀ s : State,
    (∀ t, s.rx.state ≠ .idle → feedAll [0x24, 0x4D] s = .next t → t.rx.state ≠ .sync1 ∧ t.rx.state ≠ .sync2) ∧
    (s.rx.state = .sync1 ∨ s.rx.state = .sync2 → ∃ t, feedAll [0x24, 0x4D] s = .next t ∧ t.rx.state = .idle) ∧
    (s.rx.state = .direction → 0x24 ≤ s.cfg.rxCapacity.toNat →
      feedAll [0x24, 0x4D] s = .next { s with rx := { s.rx with
        elen := 0x24, rcnt := 0, rcur := 0, opc := 0x4D, csum := 0x24 ^^^ 0x4D, state := .payload, act := true } }) ∧
    (s.rx.state = .direction → s.cfg.rxCapacity.toNat < 0x24 →
      feedAll [0x24, 0x4D] s = .next { s with rx := { s.rx with state := .idle, act := false } }) ∧
    (s.rx.state = .length → s.rx.rcnt.toNat < s.rx.elen.toNat → s.rx.elen.toNat ≤ s.cfg.rxCapacity.toNat →
      ∃ t, feedAll [0x24, 0x4D] s = .next t ∧ t.rx.state = .payload ∧ t.rx.opc = 0x24 ∧
        t.rx.csum = s.rx.csum ^^^ 0x24 ^^^ 0x4D ∧ t.rx.rcnt = s.rx.rcnt + 1 ∧ rxByte t s.rx.rcnt.toNat = 0x4D) ∧
    (s.rx.state = .length → s.rx.rcnt = s.rx.elen →
      ∃ t, feedAll [0x24, 0x4D] s = .next t ∧ t.rx.opc = 0x24 ∧
        t.rx.state = if s.rx.csum ^^^ 0x24 = 0x4D then .complete else .idle) ∧
    (s.rx.state = .payload → s.rx.rcnt.toNat + 2 ≤ s.rx.elen.toNat → s.rx.elen.toNat ≤ s.cfg.rxCapacity.toNat →
      ∃ t, feedAll [0x24, 0x4D] s = .next t ∧ t.rx.state = .payload ∧ t.rx.csum = s.rx.csum ^^^ 0x24 ^^^ 0x4D ∧
        rxByte t s.rx.rcnt.toNat = 0x24 ∧ rxByte t (s.rx.rcnt.toNat + 1) = 0x4D) ∧
    (s.rx.state = .payload → s.rx.rcnt.toNat + 1 = s.rx.elen.toNat → s.rx.elen.toNat ≤ s.cfg.rxCapacity.toNat →
      ∃ t, feedAll [0x24, 0x4D] s = .next t ∧ rxByte t s.rx.rcnt.toNat = 0x24 ∧
        t.rx.state = if s.rx.csum ^^^ 0x24 = 0x4D then .complete else .idle) ∧
    (s.rx.state = .payload → s.rx.rcnt = s.rx.elen →
      ∃ t, feedAll [0x24, 0x4D] s = .next t ∧ t.rx.state = if s.rx.csum = 0x24 then .complete else .idle) ∧
    (s.rx.state = .direction → ∀ o : Byte, ∃ t, feedAll [0x00, o, o] s = .next t ∧ t.rx.state = .complete ∧
      t.rx.opc = o ∧ t.rx.elen = 0)

/-- R211: `STATE` moves to `IDLE` only by a FEED, by ACK and by RESET; no other operation writes `STATE` at all. -/
def Obligations.StateWrittenByFeedAckResetOnly : Prop :=
  ∀ (i : Instr) (s t : State), exec i s = .next t → t.rx.state ≠ s.rx.state →
    (∃ b, i = .feed b) ∨ i = .ack ∨ i = .reset

/-- R63: FEED and the TX operations commute. -/
def Obligations.FeedCommutesWithTx : Prop :=
  ∀ (b : Byte) (i : Instr) (s : State), isTx i = true → (∃ t, exec (.feed b) s = .next t) → (∃ t, exec i s = .next t) →
    execAll [.feed b, i] s = execAll [i, .feed b] s

/-! ## The clock edge -/

/-- R86's response outputs: after an item of the command port `rsp_valid` is 1 exactly for a command word, `rsp_fault` exactly
where a fault was recorded, and `rsp_data` is 0 unless the item is REMAINING or a READ; a FEED leaves them alone; at a clock
edge that takes no item `rsp_valid` is 0. What they are between items and on a faulting beat is the model's (assumption 9). -/
def Obligations.ResponseFollowsItem : Prop :=
  (∀ (w : CmdWord) (s t : State), runItem (.cmd w) s = .next t →
    ((portOutputs t).rspValid = true ↔ cmdOp w ≠ 0xFF) ∧
      ((portOutputs t).rspFault = true ↔ t.faultLog ≠ s.faultLog) ∧
      ((portOutputs t).rspData ≠ 0 → ∃ i, decode (.cmd w) = .ok i ∧ i ∈ [Instr.remaining, .readU8, .readU16, .readU32])) ∧
  (∀ (b : Byte) (s t : State), exec (.feed b) s = .next t → t.rsp = s.rsp) ∧
  (∀ (p : Pins) (s t : State) (ts : List Turn), s.env.turns = .edge p :: ts → p.rst = false → step s = .next t →
    p.cmdValid = false ∨ s.txPending ≠ 0 ∨ s.env.cmdIn = [] → (portOutputs t).rspValid = false)

/-- R87, R208 (b): an edge without `rst` does what the turns of the agents it takes from do, the consumer's first and the byte
source's second, in the transaction-level order. The ready signals are those before the edge (assumption 12, against vector
V-A7), and bytes pending hold the command port (assumptions 10 and 11). -/
def Obligations.EdgeRefinesTurns : Prop :=
  ∀ (p : Pins) (s t : State) (ts : List Turn), s.env.turns = .edge p :: ts → p.rst = false → step s = .next t →
    let takes : List Turn := (if p.cmdValid = true ∧ s.txPending = 0 then [.consumer] else []) ++
      (if p.rxValid = true ∧ s.rx.state ≠ .complete then [.source] else [])
    ∃ u : State, Host.Core.run Sys2Proof.core takes.length
        ({ s with txPending := 0, env := { s.env with turns := takes } } : State) = .next u ∧
      t.cfg = u.cfg ∧ t.rx = u.rx ∧ t.tx = u.tx ∧ t.fault = u.fault ∧ t.faultLog = u.faultLog ∧ t.txOut = u.txOut ∧
      t.burst = u.burst ∧ t.epoch = u.epoch ∧ t.env.rxIn = u.env.rxIn ∧ t.env.cmdIn = u.env.cmdIn ∧ t.env.turns = ts

/-- R86, R87: while a send is emitting `tx_valid` is 1, `cmd_ready` 0 and `tx_data` the first byte the sink has not taken; an
edge with `tx_ready` hands over that byte and no other; no command item is taken until the last has left. With nothing pending
`tx_valid` is 0, and the edge that takes TX_SEND hands over none of its bytes. That `TX_OUT` holds the whole frame from that
edge on, with the bytes still to leave pending, is the model's (assumptions 10 and 11). -/
def Obligations.SendHoldsCommandPort : Prop :=
  ∀ (p : Pins) (s t : State) (ts : List Turn), s.env.turns = .edge p :: ts → p.rst = false → step s = .next t →
    (s.txPending ≠ 0 →
      t.txPending = s.txPending - (if p.txReady = true then 1 else 0) ∧ t.txOut = s.txOut ∧
        t.env.cmdIn = s.env.cmdIn ∧ t.tx = s.tx) ∧
    (s.txPending ≠ 0 → (portOutputs s).txValid = true ∧ (portOutputs s).cmdReady = false) ∧
    (s.txPending ≠ 0 → s.txPending ≤ s.txOut.length →
      ∃ b rest, s.txOut = wireOut s ++ b :: rest ∧ (portOutputs s).txData = some b ∧
        wireOut t = wireOut s ++ (if p.txReady = true then [b] else [])) ∧
    (s.txPending = 0 →
      (portOutputs s).txValid = false ∧ (portOutputs s).cmdReady = true ∧
        t.txPending = t.txOut.length - s.txOut.length ∧ wireOut t = s.txOut)
end

