-- ==== Sys2Proof/Laws/State.lean ====
section
/-! SUPPORT. One lemma per field of State per named update, so that no later proof unfolds an update. -/

namespace Sys2Proof.Machine

/-! ### respond -/

@[simp] theorem respond_cfg (v : Word32) (s : State) : (respond v s).cfg = s.cfg := rfl
@[simp] theorem respond_rx (v : Word32) (s : State) : (respond v s).rx = s.rx := rfl
@[simp] theorem respond_tx (v : Word32) (s : State) : (respond v s).tx = s.tx := rfl
@[simp] theorem respond_fault (v : Word32) (s : State) : (respond v s).fault = s.fault := rfl
@[simp] theorem respond_faultLog (v : Word32) (s : State) : (respond v s).faultLog = s.faultLog := rfl
@[simp] theorem respond_txOut (v : Word32) (s : State) : (respond v s).txOut = s.txOut := rfl
@[simp] theorem respond_burst (v : Word32) (s : State) : (respond v s).burst = s.burst := rfl
@[simp] theorem respond_rsp (v : Word32) (s : State) :
    (respond v s).rsp =
      { valid := true, data := v, fault := false } := rfl
@[simp] theorem respond_txPending (v : Word32) (s : State) : (respond v s).txPending = s.txPending := rfl
@[simp] theorem respond_epoch (v : Word32) (s : State) : (respond v s).epoch = s.epoch := rfl
@[simp] theorem respond_env (v : Word32) (s : State) : (respond v s).env = s.env := rfl

/-! ### raise -/

@[simp] theorem raise_cfg (e : FaultEntry) (s : State) : (raise e s).cfg = s.cfg := rfl
@[simp] theorem raise_rx (e : FaultEntry) (s : State) : (raise e s).rx = s.rx := rfl
@[simp] theorem raise_tx (e : FaultEntry) (s : State) : (raise e s).tx = s.tx := rfl
@[simp] theorem raise_fault (e : FaultEntry) (s : State) : (raise e s).fault = firstFault s.fault e.fault := rfl
@[simp] theorem raise_faultLog (e : FaultEntry) (s : State) : (raise e s).faultLog = s.faultLog ++ [e] := rfl
@[simp] theorem raise_txOut (e : FaultEntry) (s : State) : (raise e s).txOut = s.txOut := rfl
@[simp] theorem raise_burst (e : FaultEntry) (s : State) : (raise e s).burst = s.burst := rfl
@[simp] theorem raise_rsp (e : FaultEntry) (s : State) :
    (raise e s).rsp =
      { valid := true, data := 0, fault := true } := rfl
@[simp] theorem raise_txPending (e : FaultEntry) (s : State) : (raise e s).txPending = s.txPending := rfl
@[simp] theorem raise_epoch (e : FaultEntry) (s : State) : (raise e s).epoch = s.epoch := rfl
@[simp] theorem raise_env (e : FaultEntry) (s : State) : (raise e s).env = s.env := rfl

/-! ### asBeat -/

@[simp] theorem asBeat_cfg (s : State) : (asBeat s).cfg = s.cfg := rfl
@[simp] theorem asBeat_rx (s : State) : (asBeat s).rx = s.rx := rfl
@[simp] theorem asBeat_tx (s : State) : (asBeat s).tx = s.tx := rfl
@[simp] theorem asBeat_fault (s : State) : (asBeat s).fault = s.fault := rfl
@[simp] theorem asBeat_faultLog (s : State) : (asBeat s).faultLog = s.faultLog := rfl
@[simp] theorem asBeat_txOut (s : State) : (asBeat s).txOut = s.txOut := rfl
@[simp] theorem asBeat_burst (s : State) : (asBeat s).burst = s.burst := rfl
@[simp] theorem asBeat_rsp (s : State) : (asBeat s).rsp = { s.rsp with valid := false } := rfl
@[simp] theorem asBeat_txPending (s : State) : (asBeat s).txPending = s.txPending := rfl
@[simp] theorem asBeat_epoch (s : State) : (asBeat s).epoch = s.epoch := rfl
@[simp] theorem asBeat_env (s : State) : (asBeat s).env = s.env := rfl

/-! ### clearResponse -/

@[simp] theorem clearResponse_cfg (s : State) : (clearResponse s).cfg = s.cfg := rfl
@[simp] theorem clearResponse_rx (s : State) : (clearResponse s).rx = s.rx := rfl
@[simp] theorem clearResponse_tx (s : State) : (clearResponse s).tx = s.tx := rfl
@[simp] theorem clearResponse_fault (s : State) : (clearResponse s).fault = s.fault := rfl
@[simp] theorem clearResponse_faultLog (s : State) : (clearResponse s).faultLog = s.faultLog := rfl
@[simp] theorem clearResponse_txOut (s : State) : (clearResponse s).txOut = s.txOut := rfl
@[simp] theorem clearResponse_burst (s : State) : (clearResponse s).burst = s.burst := rfl
@[simp] theorem clearResponse_rsp (s : State) :
    (clearResponse s).rsp =
      { valid := false, data := 0, fault := false } := rfl
@[simp] theorem clearResponse_txPending (s : State) : (clearResponse s).txPending = s.txPending := rfl
@[simp] theorem clearResponse_epoch (s : State) : (clearResponse s).epoch = s.epoch := rfl
@[simp] theorem clearResponse_env (s : State) : (clearResponse s).env = s.env := rfl

/-! ### release -/

@[simp] theorem release_cfg (s : State) : (release s).cfg = s.cfg := rfl
@[simp] theorem release_rx (s : State) : (release s).rx = releaseRx s.rx := rfl
@[simp] theorem release_tx (s : State) : (release s).tx = releaseTx s.tx := rfl
@[simp] theorem release_fault (s : State) : (release s).fault = .none := rfl
@[simp] theorem release_faultLog (s : State) : (release s).faultLog = s.faultLog := rfl
@[simp] theorem release_txOut (s : State) : (release s).txOut = s.txOut := rfl
@[simp] theorem release_burst (s : State) : (release s).burst = s.burst := rfl
@[simp] theorem release_rsp (s : State) : (release s).rsp = s.rsp := rfl
@[simp] theorem release_txPending (s : State) : (release s).txPending = s.txPending := rfl
@[simp] theorem release_epoch (s : State) : (release s).epoch = s.epoch := rfl
@[simp] theorem release_env (s : State) : (release s).env = s.env := rfl

/-! ### forgetBuffers -/

@[simp] theorem forgetBuffers_cfg (s : State) : (forgetBuffers s).cfg = s.cfg := rfl
@[simp] theorem forgetBuffers_rx (s : State) : (forgetBuffers s).rx = { s.rx with rxbuf := [] } := rfl
@[simp] theorem forgetBuffers_tx (s : State) : (forgetBuffers s).tx = { s.tx with txbuf := [] } := rfl
@[simp] theorem forgetBuffers_fault (s : State) : (forgetBuffers s).fault = s.fault := rfl
@[simp] theorem forgetBuffers_faultLog (s : State) : (forgetBuffers s).faultLog = s.faultLog := rfl
@[simp] theorem forgetBuffers_txOut (s : State) : (forgetBuffers s).txOut = s.txOut := rfl
@[simp] theorem forgetBuffers_burst (s : State) : (forgetBuffers s).burst = s.burst := rfl
@[simp] theorem forgetBuffers_rsp (s : State) : (forgetBuffers s).rsp = s.rsp := rfl
@[simp] theorem forgetBuffers_txPending (s : State) : (forgetBuffers s).txPending = s.txPending := rfl
@[simp] theorem forgetBuffers_epoch (s : State) : (forgetBuffers s).epoch = s.epoch + 1 := rfl
@[simp] theorem forgetBuffers_env (s : State) : (forgetBuffers s).env = s.env := rfl

/-! ### advanceCursor -/

@[simp] theorem advanceCursor_cfg (n : Nat) (s : State) : (advanceCursor n s).cfg = s.cfg := rfl
@[simp] theorem advanceCursor_rx (n : Nat) (s : State) :
    (advanceCursor n s).rx =
      { s.rx with rcur := BitVec.ofNat 8 (s.rx.rcur.toNat + n) } := rfl
@[simp] theorem advanceCursor_tx (n : Nat) (s : State) : (advanceCursor n s).tx = s.tx := rfl
@[simp] theorem advanceCursor_fault (n : Nat) (s : State) : (advanceCursor n s).fault = s.fault := rfl
@[simp] theorem advanceCursor_faultLog (n : Nat) (s : State) : (advanceCursor n s).faultLog = s.faultLog := rfl
@[simp] theorem advanceCursor_txOut (n : Nat) (s : State) : (advanceCursor n s).txOut = s.txOut := rfl
@[simp] theorem advanceCursor_burst (n : Nat) (s : State) : (advanceCursor n s).burst = s.burst := rfl
@[simp] theorem advanceCursor_rsp (n : Nat) (s : State) : (advanceCursor n s).rsp = s.rsp := rfl
@[simp] theorem advanceCursor_txPending (n : Nat) (s : State) : (advanceCursor n s).txPending = s.txPending := rfl
@[simp] theorem advanceCursor_epoch (n : Nat) (s : State) : (advanceCursor n s).epoch = s.epoch := rfl
@[simp] theorem advanceCursor_env (n : Nat) (s : State) : (advanceCursor n s).env = s.env := rfl

/-! ### appendBytes -/

@[simp] theorem appendBytes_cfg (ds : List Byte) (s : State) : (appendBytes ds s).cfg = s.cfg := rfl
@[simp] theorem appendBytes_rx (ds : List Byte) (s : State) : (appendBytes ds s).rx = s.rx := rfl
@[simp] theorem appendBytes_tx (ds : List Byte) (s : State) :
    (appendBytes ds s).tx =
      { s.tx with txbuf := s.tx.txbuf.writeBytes s.tx.tlen.toNat ds, tlen := BitVec.ofNat 8 (s.tx.tlen.toNat + ds.length) } := rfl
@[simp] theorem appendBytes_fault (ds : List Byte) (s : State) : (appendBytes ds s).fault = s.fault := rfl
@[simp] theorem appendBytes_faultLog (ds : List Byte) (s : State) : (appendBytes ds s).faultLog = s.faultLog := rfl
@[simp] theorem appendBytes_txOut (ds : List Byte) (s : State) : (appendBytes ds s).txOut = s.txOut := rfl
@[simp] theorem appendBytes_burst (ds : List Byte) (s : State) : (appendBytes ds s).burst = s.burst := rfl
@[simp] theorem appendBytes_rsp (ds : List Byte) (s : State) : (appendBytes ds s).rsp = s.rsp := rfl
@[simp] theorem appendBytes_txPending (ds : List Byte) (s : State) : (appendBytes ds s).txPending = s.txPending := rfl
@[simp] theorem appendBytes_epoch (ds : List Byte) (s : State) : (appendBytes ds s).epoch = s.epoch := rfl
@[simp] theorem appendBytes_env (ds : List Byte) (s : State) : (appendBytes ds s).env = s.env := rfl

/-! ### setResult -/

@[simp] theorem setResult_cfg (r : TxResult) (s : State) : (setResult r s).cfg = s.cfg := rfl
@[simp] theorem setResult_rx (r : TxResult) (s : State) : (setResult r s).rx = s.rx := rfl
@[simp] theorem setResult_tx (r : TxResult) (s : State) : (setResult r s).tx = { s.tx with tres := r } := rfl
@[simp] theorem setResult_fault (r : TxResult) (s : State) : (setResult r s).fault = s.fault := rfl
@[simp] theorem setResult_faultLog (r : TxResult) (s : State) : (setResult r s).faultLog = s.faultLog := rfl
@[simp] theorem setResult_txOut (r : TxResult) (s : State) : (setResult r s).txOut = s.txOut := rfl
@[simp] theorem setResult_burst (r : TxResult) (s : State) : (setResult r s).burst = s.burst := rfl
@[simp] theorem setResult_rsp (r : TxResult) (s : State) : (setResult r s).rsp = s.rsp := rfl
@[simp] theorem setResult_txPending (r : TxResult) (s : State) : (setResult r s).txPending = s.txPending := rfl
@[simp] theorem setResult_epoch (r : TxResult) (s : State) : (setResult r s).epoch = s.epoch := rfl
@[simp] theorem setResult_env (r : TxResult) (s : State) : (setResult r s).env = s.env := rfl

/-! ### sinkTake -/

@[simp] theorem sinkTake_cfg (s : State) : (sinkTake s).cfg = s.cfg := rfl
@[simp] theorem sinkTake_rx (s : State) : (sinkTake s).rx = s.rx := rfl
@[simp] theorem sinkTake_tx (s : State) : (sinkTake s).tx = s.tx := rfl
@[simp] theorem sinkTake_fault (s : State) : (sinkTake s).fault = s.fault := rfl
@[simp] theorem sinkTake_faultLog (s : State) : (sinkTake s).faultLog = s.faultLog := rfl
@[simp] theorem sinkTake_txOut (s : State) : (sinkTake s).txOut = s.txOut := rfl
@[simp] theorem sinkTake_burst (s : State) : (sinkTake s).burst = s.burst := rfl
@[simp] theorem sinkTake_rsp (s : State) : (sinkTake s).rsp = s.rsp := rfl
@[simp] theorem sinkTake_txPending (s : State) : (sinkTake s).txPending = s.txPending - 1 := rfl
@[simp] theorem sinkTake_epoch (s : State) : (sinkTake s).epoch = s.epoch := rfl
@[simp] theorem sinkTake_env (s : State) : (sinkTake s).env = s.env := rfl

/-! ### dropByte -/

@[simp] theorem dropByte_cfg (s : State) : (dropByte s).cfg = s.cfg := rfl
@[simp] theorem dropByte_rx (s : State) : (dropByte s).rx = s.rx := rfl
@[simp] theorem dropByte_tx (s : State) : (dropByte s).tx = s.tx := rfl
@[simp] theorem dropByte_fault (s : State) : (dropByte s).fault = s.fault := rfl
@[simp] theorem dropByte_faultLog (s : State) : (dropByte s).faultLog = s.faultLog := rfl
@[simp] theorem dropByte_txOut (s : State) : (dropByte s).txOut = s.txOut := rfl
@[simp] theorem dropByte_burst (s : State) : (dropByte s).burst = s.burst := rfl
@[simp] theorem dropByte_rsp (s : State) : (dropByte s).rsp = s.rsp := rfl
@[simp] theorem dropByte_txPending (s : State) : (dropByte s).txPending = s.txPending := rfl
@[simp] theorem dropByte_epoch (s : State) : (dropByte s).epoch = s.epoch := rfl
@[simp] theorem dropByte_env (s : State) : (dropByte s).env = { s.env with rxIn := s.env.rxIn.tail } := rfl

/-! ### dropWord -/

@[simp] theorem dropWord_cfg (s : State) : (dropWord s).cfg = s.cfg := rfl
@[simp] theorem dropWord_rx (s : State) : (dropWord s).rx = s.rx := rfl
@[simp] theorem dropWord_tx (s : State) : (dropWord s).tx = s.tx := rfl
@[simp] theorem dropWord_fault (s : State) : (dropWord s).fault = s.fault := rfl
@[simp] theorem dropWord_faultLog (s : State) : (dropWord s).faultLog = s.faultLog := rfl
@[simp] theorem dropWord_txOut (s : State) : (dropWord s).txOut = s.txOut := rfl
@[simp] theorem dropWord_burst (s : State) : (dropWord s).burst = s.burst := rfl
@[simp] theorem dropWord_rsp (s : State) : (dropWord s).rsp = s.rsp := rfl
@[simp] theorem dropWord_txPending (s : State) : (dropWord s).txPending = s.txPending := rfl
@[simp] theorem dropWord_epoch (s : State) : (dropWord s).epoch = s.epoch := rfl
@[simp] theorem dropWord_env (s : State) : (dropWord s).env = { s.env with cmdIn := s.env.cmdIn.tail } := rfl

/-! ### dropTurn -/

@[simp] theorem dropTurn_cfg (s : State) : (dropTurn s).cfg = s.cfg := rfl
@[simp] theorem dropTurn_rx (s : State) : (dropTurn s).rx = s.rx := rfl
@[simp] theorem dropTurn_tx (s : State) : (dropTurn s).tx = s.tx := rfl
@[simp] theorem dropTurn_fault (s : State) : (dropTurn s).fault = s.fault := rfl
@[simp] theorem dropTurn_faultLog (s : State) : (dropTurn s).faultLog = s.faultLog := rfl
@[simp] theorem dropTurn_txOut (s : State) : (dropTurn s).txOut = s.txOut := rfl
@[simp] theorem dropTurn_burst (s : State) : (dropTurn s).burst = s.burst := rfl
@[simp] theorem dropTurn_rsp (s : State) : (dropTurn s).rsp = s.rsp := rfl
@[simp] theorem dropTurn_txPending (s : State) : (dropTurn s).txPending = s.txPending := rfl
@[simp] theorem dropTurn_epoch (s : State) : (dropTurn s).epoch = s.epoch := rfl
@[simp] theorem dropTurn_env (s : State) : (dropTurn s).env = { s.env with turns := s.env.turns.tail } := rfl

/-! ### the parser's registers -/

@[simp] theorem parserTo_state (p : Phase) (r : Rx) : (parserTo p r).state = p := rfl
@[simp] theorem parserTo_dir (p : Phase) (r : Rx) : (parserTo p r).dir = r.dir := rfl
@[simp] theorem parserTo_opc (p : Phase) (r : Rx) : (parserTo p r).opc = r.opc := rfl
@[simp] theorem parserTo_elen (p : Phase) (r : Rx) : (parserTo p r).elen = r.elen := rfl
@[simp] theorem parserTo_rcnt (p : Phase) (r : Rx) : (parserTo p r).rcnt = r.rcnt := rfl
@[simp] theorem parserTo_rcur (p : Phase) (r : Rx) : (parserTo p r).rcur = r.rcur := rfl
@[simp] theorem parserTo_csum (p : Phase) (r : Rx) : (parserTo p r).csum = r.csum := rfl
@[simp] theorem parserTo_rxbuf (p : Phase) (r : Rx) : (parserTo p r).rxbuf = r.rxbuf := rfl
@[simp] theorem parserTo_act (p : Phase) (r : Rx) : (parserTo p r).act = actOf p := rfl

@[simp] theorem releaseRx_state (r : Rx) : (releaseRx r).state = .idle := rfl
@[simp] theorem releaseRx_dir (r : Rx) : (releaseRx r).dir = .command := rfl
@[simp] theorem releaseRx_opc (r : Rx) : (releaseRx r).opc = 0 := rfl
@[simp] theorem releaseRx_elen (r : Rx) : (releaseRx r).elen = 0 := rfl
@[simp] theorem releaseRx_rcnt (r : Rx) : (releaseRx r).rcnt = 0 := rfl
@[simp] theorem releaseRx_rcur (r : Rx) : (releaseRx r).rcur = 0 := rfl
@[simp] theorem releaseRx_csum (r : Rx) : (releaseRx r).csum = 0 := rfl
@[simp] theorem releaseRx_rxbuf (r : Rx) : (releaseRx r).rxbuf = r.rxbuf := rfl
@[simp] theorem releaseRx_act (r : Rx) : (releaseRx r).act = false := rfl

@[simp] theorem releaseTx_topc (t : Tx) : (releaseTx t).topc = 0 := rfl
@[simp] theorem releaseTx_tres (t : Tx) : (releaseTx t).tres = .ok := rfl
@[simp] theorem releaseTx_tlen (t : Tx) : (releaseTx t).tlen = 0 := rfl
@[simp] theorem releaseTx_txbuf (t : Tx) : (releaseTx t).txbuf = t.txbuf := rfl
@[simp] theorem releaseTx_tarm (t : Tx) : (releaseTx t).tarm = false := rfl

@[simp] theorem beginTx_topc (op8 : Byte) (t : Tx) : (beginTx op8 t).topc = op8 := rfl
@[simp] theorem beginTx_tres (op8 : Byte) (t : Tx) : (beginTx op8 t).tres = .ok := rfl
@[simp] theorem beginTx_tlen (op8 : Byte) (t : Tx) : (beginTx op8 t).tlen = 0 := rfl
@[simp] theorem beginTx_txbuf (op8 : Byte) (t : Tx) : (beginTx op8 t).txbuf = t.txbuf := rfl
@[simp] theorem beginTx_tarm (op8 : Byte) (t : Tx) : (beginTx op8 t).tarm = true := rfl

end Sys2Proof.Machine
end

