-- ==== Sys2Proof/Laws/Memory.lean ====
section
/-! SUPPORT. The laws of the payload buffers: read after write, and that writing keeps the canonical form (20_memory.md R50
to R52). -/

namespace Sys2Proof.Machine

@[simp] theorem read?_nil (a : Nat) : Memory.read? [] a = none := rfl

@[simp] theorem write_nil (a : Nat) (v : Byte) : Memory.write [] a v = [(a, v)] := rfl

@[simp] theorem writeBytes_nil (m : Memory) (a : Nat) : Memory.writeBytes m a [] = m := rfl

@[simp] theorem writeBytes_cons (m : Memory) (a : Nat) (b : Byte) (bs : List Byte) :
    Memory.writeBytes m a (b :: bs) = Memory.writeBytes (Memory.write m a b) (a + 1) bs := rfl

/-- A byte reads as last written there, and every other byte as before. -/
theorem read?_write (m : Memory) (a : Nat) (v : Byte) (j : Nat) :
    (m.write a v).read? j = if j = a then some v else m.read? j := by
  induction m with
  | nil =>
    rw [write_nil]
    by_cases h : j = a
    · simp [Memory.read?, h]
    · simp [Memory.read?, h, Ne.symm h, Memory.unlisted]
  | cons c m ih =>
    by_cases h1 : a < c.1
    · by_cases h : j = a
      · simp [Memory.write, h1, Memory.read?, h]
      · simp [Memory.write, h1, Memory.read?, h, Ne.symm h]
    · by_cases h2 : a = c.1
      · by_cases h : j = a
        · simp [Memory.write, Memory.read?, h, ← h2]
        · simp [Memory.write, Memory.read?, h, ← h2, Ne.symm h]
      · by_cases h : c.1 = j
        · subst h
          simp [Memory.write, h1, h2, Memory.read?, Ne.symm h2]
        · simp [Memory.write, h1, h2, Memory.read?, h, ih]

/-- The addresses listed after a write are the old ones and the one written. -/
theorem mem_write {m : Memory} {a : Nat} {v : Byte} {c : Host.Cell} (h : c ∈ m.write a v) : c.1 = a ∨ c ∈ m := by
  induction m with
  | nil => simp_all
  | cons d m ih =>
    simp only [Memory.write] at h
    split at h
    · rcases List.mem_cons.mp h with rfl | h
      · exact .inl rfl
      · exact .inr h
    · split at h
      · rcases List.mem_cons.mp h with rfl | h
        · exact .inl rfl
        · exact .inr (List.mem_cons_of_mem _ h)
      · rcases List.mem_cons.mp h with rfl | h
        · exact .inr (by simp)
        · exact (ih h).imp_right (List.mem_cons_of_mem _)

/-- A write keeps the canonical form. -/
theorem write_wf {m : Memory} (a : Nat) (v : Byte) (h : m.wf) : (m.write a v).wf := by
  induction m with
  | nil => simp [Memory.wf]
  | cons c m ih =>
    obtain ⟨hc, hm⟩ := List.pairwise_cons.mp h
    simp only [Memory.write]
    split
    · rename_i hac
      refine List.pairwise_cons.mpr ⟨fun d hd => ?_, h⟩
      rcases List.mem_cons.mp hd with rfl | hd
      · exact hac
      · exact hac.trans (hc d hd)
    · split
      · rename_i hac
        subst hac
        exact List.pairwise_cons.mpr ⟨fun d hd => hc d hd, hm⟩
      · rename_i hlt hne
        refine List.pairwise_cons.mpr ⟨fun d hd => ?_, ih hm⟩
        rcases mem_write hd with hd | hd
        · omega
        · exact hc d hd

/-- Consecutive bytes read as written, and every other byte as before. -/
theorem read?_writeBytes (ds : List Byte) (m : Memory) (a j : Nat) :
    (m.writeBytes a ds).read? j = if a ≤ j ∧ j < a + ds.length then ds[j - a]? else m.read? j := by
  induction ds generalizing m a with
  | nil =>
    have h : ¬(a ≤ j ∧ j < a) := by omega
    simp [h]
  | cons d ds ih =>
    simp only [writeBytes_cons, ih, List.length_cons, read?_write]
    by_cases h1 : a + 1 ≤ j ∧ j < a + 1 + ds.length
    · rw [if_pos h1, if_pos (by omega), show j - a = (j - (a + 1)) + 1 by omega, List.getElem?_cons_succ]
    · by_cases h2 : j = a
      · subst h2
        rw [if_neg h1, if_pos rfl, if_pos (by omega)]
        simp
      · rw [if_neg h1, if_neg h2, if_neg (by omega)]

/-- The addresses listed after consecutive writes. -/
theorem mem_writeBytes {ds : List Byte} {m : Memory} {a : Nat} {c : Host.Cell} (h : c ∈ m.writeBytes a ds) :
    (a ≤ c.1 ∧ c.1 < a + ds.length) ∨ c ∈ m := by
  induction ds generalizing m a with
  | nil => exact .inr h
  | cons d ds ih =>
    rcases ih h with h | h
    · exact .inl (by simp only [List.length_cons]; omega)
    · rcases mem_write h with h | h
      · exact .inl (by simp only [List.length_cons]; omega)
      · exact .inr h

/-- Consecutive writes keep the canonical form. -/
theorem writeBytes_wf {m : Memory} (a : Nat) (ds : List Byte) (h : m.wf) : (m.writeBytes a ds).wf := by
  induction ds generalizing m a with
  | nil => exact h
  | cons d ds ih => exact ih (a + 1) (write_wf a d h)

/-! ## The bytes the operations read -/

/-- `RXBUF[j]` depends on the buffer and the epoch alone. -/
theorem rxByte_congr {s t : State} (hb : t.rx.rxbuf = s.rx.rxbuf) (he : t.epoch = s.epoch) (j : Nat) :
    rxByte t j = rxByte s j := by
  simp [rxByte, hb, he]

/-- `TXBUF[j]` depends on the buffer and the epoch alone. -/
theorem txByte_congr {s t : State} (hb : t.tx.txbuf = s.tx.txbuf) (he : t.epoch = s.epoch) (j : Nat) :
    txByte t j = txByte s j := by
  simp [txByte, hb, he]

/-- `n` bytes of `RXBUF` depend on the buffer and the epoch alone. -/
theorem rxBytes_congr {s t : State} (hb : t.rx.rxbuf = s.rx.rxbuf) (he : t.epoch = s.epoch) (a n : Nat) :
    rxBytes t a n = rxBytes s a n := by
  simp [rxBytes, rxByte_congr hb he]

/-- The bytes of `RXBUF` read one further. -/
theorem rxBytes_succ (s : State) (a n : Nat) : rxBytes s a (n + 1) = rxBytes s a n ++ [rxByte s (a + n)] := by
  simp [rxBytes, List.range_succ]

@[simp] theorem rxBytes_zero (s : State) (a : Nat) : rxBytes s a 0 = [] := rfl

@[simp] theorem rxBytes_length (s : State) (a n : Nat) : (rxBytes s a n).length = n := by simp [rxBytes]

/-- The bytes appended read as given, and every other byte of `TXBUF` as before. -/
theorem txByte_appendBytes (ds : List Byte) (s : State) (j : Nat) :
    txByte (appendBytes ds s) j =
      if s.tx.tlen.toNat ≤ j ∧ j < s.tx.tlen.toNat + ds.length then
        (ds[j - s.tx.tlen.toNat]?).getD (Config.freeByte .tx s.epoch j)
      else txByte s j := by
  simp only [txByte, appendBytes_tx, appendBytes_epoch, read?_writeBytes]
  split <;> rfl

end Sys2Proof.Machine
end

