-- ==== Sys2Proof/Laws/Ops.lean ====
section
/-! SUPPORT. What each shared operation can do, said once: the guards, the read and write forms, the beats and the fault
(60_exceptions.md R205, R207). -/

namespace Sys2Proof.Machine

/-! ## The guards -/

/-- Past the burst guard, no burst is open. -/
theorem outsideBurst_next {s t : State} {k : Result} (h : outsideBurst s k = .next t) :
    s.burst = none ∧ k = .next t := by
  unfold outsideBurst at h
  split at h
  · cases h
  · rename_i hb
    exact ⟨by simpa using hb, h⟩

@[simp] theorem outsideBurst_of_none {s : State} {k : Result} (h : s.burst = none) : outsideBurst s k = k := by
  simp [outsideBurst, h]

theorem outsideBurst_of_some {s : State} {k : Result} (h : s.burst.isSome = true) :
    outsideBurst s k = .refused .burstInterrupted := by
  simp [outsideBurst, h]

/-- The read-port guard lets the operation run in `COMPLETE` and faults elsewhere. -/
theorem readPortGuard_next {s t : State} {k : Result} (h : readPortGuard s k = .next t) :
    (s.rx.state = .complete ∧ k = .next t) ∨
      (s.rx.state ≠ .complete ∧ s.rx.state ≠ .reserved ∧ t = raise (.rdNotReady s.rx.state) s) := by
  unfold readPortGuard at h
  split at h
  · exact .inl ⟨‹_›, h⟩
  · split at h
    · cases h
    · exact .inr ⟨‹_›, ‹_›, by simpa using h.symm⟩

/-- The read bound lets the operation run within `RCNT` and faults past it. -/
theorem readBound_next {n : Nat} {s t : State} {k : Result} (h : readBound n s k = .next t) :
    (s.rx.rcur.toNat + n ≤ s.rx.rcnt.toNat ∧ k = .next t) ∨
      (s.rx.rcnt.toNat < s.rx.rcur.toNat + n ∧ t = raise (.rdOverrun s.rx.rcur n) s) := by
  unfold readBound at h
  split at h
  · exact .inr ⟨‹_›, by simpa using h.symm⟩
  · exact .inl ⟨by omega, h⟩

/-- TxGuard lets the operation run while armed and faults otherwise. -/
theorem txGuard_next {s t : State} {k : Result} (h : txGuard s k = .next t) :
    (s.tx.tarm = true ∧ k = .next t) ∨ (s.tx.tarm = false ∧ t = raise .txNotArmed s) := by
  unfold txGuard at h
  split at h
  · exact .inl ⟨‹_›, h⟩
  · rename_i ha
    exact .inr ⟨by simpa using ha, by simpa using h.symm⟩

/-- The write bound lets the operation run within `TX_CAPACITY` and faults past it. -/
theorem writeBound_next {n : Nat} {s t : State} {k : Result} (h : writeBound n s k = .next t) :
    (s.tx.tlen.toNat + n ≤ s.cfg.txCapacity.toNat ∧ k = .next t) ∨
      (s.cfg.txCapacity.toNat < s.tx.tlen.toNat + n ∧ t = raise (.wrOverflow s.tx.tlen n) s) := by
  unfold writeBound at h
  split at h
  · exact .inr ⟨‹_›, by simpa using h.symm⟩
  · exact .inl ⟨by omega, h⟩

/-! ## The read and write forms -/

/-- A READ either faults, changing nothing else, or returns the field and moves the cursor. -/
theorem readField_next {n : Nat} {s t : State} (h : readField n s = .next t) :
    s.burst = none ∧
      ((∃ e, t = raise e s) ∨
        (s.rx.state = .complete ∧ s.rx.rcur.toNat + n ≤ s.rx.rcnt.toNat ∧
          s.rx.rcur.toNat + n ≤ s.cfg.rxCapacity.toNat ∧
          t = respond (leValue (rxBytes s s.rx.rcur.toNat n)) (advanceCursor n s))) := by
  obtain ⟨hb, h⟩ := outsideBurst_next h
  refine ⟨hb, ?_⟩
  rcases readPortGuard_next h with ⟨hc, h⟩ | ⟨-, -, rfl⟩
  · rcases readBound_next h with ⟨hn, h⟩ | ⟨-, rfl⟩
    · split at h
      · cases h
      · exact .inr ⟨hc, hn, by omega, by simpa using h.symm⟩
    · exact .inl ⟨_, rfl⟩
  · exact .inl ⟨_, rfl⟩

/-- A TX write either faults, changing nothing else, or appends all its bytes. -/
theorem writeField_next {ds : List Byte} {s t : State} (h : writeField ds s = .next t) :
    (∃ e, t = raise e s) ∨
      (s.tx.tarm = true ∧ s.tx.tlen.toNat + ds.length ≤ s.cfg.txCapacity.toNat ∧
        t = respond 0 (appendBytes ds s)) := by
  rcases txGuard_next h with ⟨ha, h⟩ | ⟨-, rfl⟩
  · rcases writeBound_next h with ⟨hn, h⟩ | ⟨-, rfl⟩
    · exact .inr ⟨ha, hn, by simpa using h.symm⟩
    · exact .inl ⟨_, rfl⟩
  · exact .inl ⟨_, rfl⟩

/-- A TX write always answers a next state. -/
theorem writeField_completes (ds : List Byte) (s : State) : ∃ t, writeField ds s = .next t := by
  unfold writeField txGuard writeBound
  split
  · split <;> exact ⟨_, rfl⟩
  · exact ⟨_, rfl⟩

/-- A TX write that is armed and fits. -/
theorem writeField_ok {ds : List Byte} {s : State} (ha : s.tx.tarm = true)
    (hn : s.tx.tlen.toNat + ds.length ≤ s.cfg.txCapacity.toNat) :
    writeField ds s = .next (respond 0 (appendBytes ds s)) := by
  simp [writeField, txGuard, writeBound, ha, Nat.not_lt.mpr hn]

/-- The new `TLEN` of an appended field does not wrap. -/
theorem appendBytes_tlen {ds : List Byte} {s : State} (hn : s.tx.tlen.toNat + ds.length ≤ s.cfg.txCapacity.toNat) :
    (BitVec.ofNat 8 (s.tx.tlen.toNat + ds.length)).toNat = s.tx.tlen.toNat + ds.length := by
  have := s.cfg.txCapacity.isLt
  simp only [BitVec.toNat_ofNat]
  omega

/-- Each write form writes as many bytes as its width. -/
@[simp] theorem leBytes_length (n : Nat) (v : Word32) : (leBytes n v).length = n := by simp [leBytes]

/-! ## Beats -/

/-- A result on a beat is the operation's own, but for the response. -/
theorem asBeatResult_next {k : Result} {t : State} (h : asBeatResult k = .next t) :
    ∃ u, k = .next u ∧ t = asBeat u := by
  cases k with
  | next u => exact ⟨u, rfl, by simpa [asBeatResult] using h.symm⟩
  | fault r => cases h
  | refused r => cases h

/-- A beat joins the open burst, or it is the last: then the burst closes, and its operation faults or appends all its
bytes. -/
theorem takeBeat_next {d : Byte} {bad : Bool} {b : Burst} {s t : State} (h : takeBeat d bad b s = .next t) :
    ((b.push d bad).beats.length < b.count.toNat ∧
        t = clearResponse { s with burst := some (b.push d bad) }) ∨
      (b.count.toNat ≤ (b.push d bad).beats.length ∧
        ((∃ e, t = asBeat (raise e { s with burst := none })) ∨
          ((b.push d bad).bad = false ∧ s.tx.tarm = true ∧
            s.tx.tlen.toNat + (b.push d bad).beats.length ≤ s.cfg.txCapacity.toNat ∧
            t = asBeat (respond 0 (appendBytes (b.push d bad).beats { s with burst := none }))))) := by
  unfold takeBeat at h
  split at h
  · exact .inl ⟨‹_›, by simpa using h.symm⟩
  · refine .inr ⟨by omega, ?_⟩
    obtain ⟨u, hu, rfl⟩ := asBeatResult_next h
    unfold commitBurst at hu
    split at hu
    · exact .inl ⟨_, congrArg asBeat (Host.Outcome.next.inj hu).symm⟩
    · rename_i hbad
      rcases writeField_next hu with ⟨e, rfl⟩ | ⟨ha, hn, rfl⟩
      · exact .inl ⟨e, rfl⟩
      · exact .inr ⟨by simpa using hbad, ha, hn, rfl⟩

/-- A beat always answers a next state. -/
theorem takeBeat_completes (d : Byte) (bad : Bool) (b : Burst) (s : State) : ∃ t, takeBeat d bad b s = .next t := by
  unfold takeBeat commitBurst
  split
  · exact ⟨_, rfl⟩
  · split
    · exact ⟨_, rfl⟩
    · obtain ⟨t, ht⟩ := writeField_completes (b.push d bad).beats { s with burst := none }
      exact ⟨asBeat t, by rw [ht]; rfl⟩

/-- A rejected word faults, is refused, or is a bad beat. -/
theorem rejectWord_next {w : CmdWord} {s t : State} (h : rejectWord w s = .next t) :
    (s.burst = none ∧ (t = raise (.illegalOp w) s ∨ t = asBeat (raise (.illegalOp w) s))) ∨
      (∃ b, s.burst = some b ∧ takeBeat ((cmdArg w).setWidth 8) true b s = .next t) := by
  unfold rejectWord at h
  split at h
  · rename_i hb
    split at h <;> cases h
    · exact .inl ⟨hb, .inr rfl⟩
    · exact .inl ⟨hb, .inl rfl⟩
  · rename_i b hb
    split at h
    · exact .inr ⟨b, hb, h⟩
    · cases h

end Sys2Proof.Machine
end

