-- ==== Sys2Proof/Laws/Exec.lean ====
section
/-! SUPPORT. What each operation can do, said once: if it answers a next state, then one of the cases listed. -/

namespace Sys2Proof.Machine

/-- FEED writes the inbound registers alone. -/
theorem execFeed_frame {b : Byte} {s t : State} (h : execFeed b s = .next t) : t = { s with rx := t.rx } := by
  unfold execFeed at h
  split at h
  case h_6 =>
    unfold feedPayload at h
    split at h
    · split at h <;> cases h
      rfl
    · cases h
      rfl
  case h_8 => cases h
  all_goals
    cases h
    rfl

/-- FEED never answers `STATE` code 7. -/
theorem execFeed_legal {b : Byte} {s t : State} (h : execFeed b s = .next t) : s.rx.state ≠ .reserved := by
  intro hr
  simp [execFeed, hr] at h

/-- FEED in `PAYLOAD`: a payload byte in bounds, or the checksum byte. -/
theorem feedPayload_next {b : Byte} {s t : State} (h : feedPayload b s = .next t) :
    (s.rx.rcnt.toNat < s.rx.elen.toNat ∧ s.rx.rcnt.toNat < s.cfg.rxCapacity.toNat ∧
        t = { s with rx := feedPayloadByte b s.rx }) ∨
      (s.rx.elen.toNat ≤ s.rx.rcnt.toNat ∧ t = { s with rx := feedChecksum b s.rx }) := by
  unfold feedPayload at h
  split at h
  · split at h
    · exact .inl ⟨‹_›, ‹_›, by simpa using h.symm⟩
    · cases h
  · exact .inr ⟨by omega, by simpa using h.symm⟩

/-- FEED, one case a state of the parser (40_rx_frame_parser.md R113). -/
theorem execFeed_next {b : Byte} {s t : State} (h : execFeed b s = .next t) :
    (s.rx.state = .idle ∧ t = { s with rx := feedIdle b s.rx }) ∨
    (s.rx.state = .sync1 ∧ t = { s with rx := feedSync1 b s.rx }) ∨
    (s.rx.state = .sync2 ∧ t = { s with rx := feedSync2 b s.rx }) ∨
    (s.rx.state = .direction ∧ t = { s with rx := feedDirection s.cfg.rxCapacity b s.rx }) ∨
    (s.rx.state = .length ∧ t = { s with rx := feedLength b s.rx }) ∨
    (s.rx.state = .payload ∧ s.rx.rcnt.toNat < s.rx.elen.toNat ∧ s.rx.rcnt.toNat < s.cfg.rxCapacity.toNat ∧
      t = { s with rx := feedPayloadByte b s.rx }) ∨
    (s.rx.state = .payload ∧ s.rx.elen.toNat ≤ s.rx.rcnt.toNat ∧ t = { s with rx := feedChecksum b s.rx }) ∨
    (s.rx.state = .complete ∧ t = s) := by
  cases hp : s.rx.state <;> simp only [execFeed, hp] at h
  case payload =>
    rcases feedPayload_next h with ⟨h1, h2, h3⟩ | ⟨h1, h2⟩
    · simp [h1, h2, h3]
    · simp [h1, h2]
  case reserved => cases h
  all_goals
    cases h
    simp

/-- RESET runs where no send is emitting. -/
theorem execReset_next {s t : State} (h : execReset s = .next t) :
    s.txPending = 0 ∧ t = clearResponse { forgetBuffers (release s) with burst := none } := by
  unfold execReset at h
  split at h
  · exact ⟨‹_›, by simpa using h.symm⟩
  · cases h

/-- ACK runs where no burst is open. -/
theorem execAck_next {s t : State} (h : execAck s = .next t) : s.burst = none ∧ t = respond 0 (release s) := by
  obtain ⟨hb, h⟩ := outsideBurst_next h
  exact ⟨hb, by simpa using h.symm⟩

/-- A read-port operation faults, changing nothing else, or moves the cursor within `RCNT` and responds. -/
theorem readPort_next {i : Instr} {s t : State}
    (hi : i = .remaining ∨ i = .readU8 ∨ i = .readU16 ∨ i = .readU32 ∨ ∃ n, i = .advance n) (h : exec i s = .next t) :
    s.burst = none ∧
      ((∃ e, t = raise e s) ∨
        (s.rx.state = .complete ∧ ((∃ v, t = respond v s) ∨
          ∃ v n, s.rx.rcur.toNat + n ≤ s.rx.rcnt.toNat ∧ t = respond v (advanceCursor n s)))) := by
  rcases hi with rfl | rfl | rfl | rfl | ⟨n, rfl⟩
  · obtain ⟨hb, h⟩ := outsideBurst_next h
    refine ⟨hb, ?_⟩
    rcases readPortGuard_next h with ⟨hc, h⟩ | ⟨-, -, rfl⟩
    · exact .inr ⟨hc, .inl ⟨_, by simpa using h.symm⟩⟩
    · exact .inl ⟨_, rfl⟩
  · obtain ⟨hb, h | ⟨hc, hn, -, rfl⟩⟩ := readField_next h
    exacts [⟨hb, .inl h⟩, ⟨hb, .inr ⟨hc, .inr ⟨_, _, hn, rfl⟩⟩⟩]
  · obtain ⟨hb, h | ⟨hc, hn, -, rfl⟩⟩ := readField_next h
    exacts [⟨hb, .inl h⟩, ⟨hb, .inr ⟨hc, .inr ⟨_, _, hn, rfl⟩⟩⟩]
  · obtain ⟨hb, h | ⟨hc, hn, -, rfl⟩⟩ := readField_next h
    exacts [⟨hb, .inl h⟩, ⟨hb, .inr ⟨hc, .inr ⟨_, _, hn, rfl⟩⟩⟩]
  · obtain ⟨hb, h⟩ := outsideBurst_next h
    refine ⟨hb, ?_⟩
    rcases readPortGuard_next h with ⟨hc, h⟩ | ⟨-, -, rfl⟩
    · rcases readBound_next h with ⟨hn, h⟩ | ⟨-, rfl⟩
      · exact .inr ⟨hc, .inr ⟨_, n.toNat, hn, by simpa using h.symm⟩⟩
      · exact .inl ⟨_, rfl⟩
    · exact .inl ⟨_, rfl⟩

/-- A TX write of a field faults, changing nothing else, or appends the field's bytes. -/
theorem txWrite_next {i : Instr} {s t : State}
    (hi : (∃ v, i = .txWriteU8 v) ∨ (∃ v, i = .txWriteU16 v) ∨ ∃ v, i = .txWriteU32 v) (h : exec i s = .next t) :
    s.burst = none ∧
      ((∃ e, t = raise e s) ∨
        ∃ ds, s.tx.tarm = true ∧ s.tx.tlen.toNat + ds.length ≤ s.cfg.txCapacity.toNat ∧
          t = respond 0 (appendBytes ds s)) := by
  rcases hi with ⟨v, rfl⟩ | ⟨v, rfl⟩ | ⟨v, rfl⟩
  all_goals
    obtain ⟨hb, h⟩ := outsideBurst_next h
    rcases writeField_next h with h | ⟨ha, hn, rfl⟩
    exacts [⟨hb, .inl h⟩, ⟨hb, .inr ⟨_, ha, hn, rfl⟩⟩]

/-- TX_BEGIN runs where no burst is open. -/
theorem execTxBegin_next {op8 : Byte} {s t : State} (h : execTxBegin op8 s = .next t) :
    s.burst = none ∧ t = respond 0 { s with tx := beginTx op8 s.tx } := by
  obtain ⟨hb, h⟩ := outsideBurst_next h
  exact ⟨hb, by simpa using h.symm⟩

/-- TX_SET_RESULT faults, changing nothing else, or stores a result. -/
theorem execTxSetResult_next {r : BitVec 2} {s t : State} (h : execTxSetResult r s = .next t) :
    s.burst = none ∧
      ((∃ e, t = raise e s) ∨ ∃ res, resultOfCode r = some res ∧ s.tx.tarm = true ∧ t = respond 0 (setResult res s)) := by
  obtain ⟨hb, h⟩ := outsideBurst_next h
  refine ⟨hb, ?_⟩
  split at h
  · exact .inl ⟨_, by simpa using h.symm⟩
  · rename_i res hres
    rcases txGuard_next h with ⟨ha, h⟩ | ⟨-, rfl⟩
    · exact .inr ⟨res, hres, ha, by simpa using h.symm⟩
    · exact .inl ⟨_, rfl⟩

/-- The header of a burst opens it, or, with no beat to follow, faults or appends nothing. -/
theorem openBurst_next {k : BurstKind} {n : Byte} {s t : State} (h : openBurst k n s = .next t) :
    s.burst = none ∧
      ((n = 0 ∧ ((∃ e, t = raise e s) ∨
          (s.tx.tarm = true ∧ s.tx.tlen.toNat ≤ s.cfg.txCapacity.toNat ∧ t = respond 0 (appendBytes [] s)))) ∨
        (n ≠ 0 ∧ t = respond 0 { s with burst := some { kind := k, count := n, beats := [], bad := false } })) := by
  obtain ⟨hb, h⟩ := outsideBurst_next h
  refine ⟨hb, ?_⟩
  split at h
  · exact .inl ⟨‹_›, writeField_next h⟩
  · exact .inr ⟨‹_›, by simpa using h.symm⟩

/-- A DATA beat faults with no burst open, else it is taken by the burst. -/
theorem execData_next {d : Byte} {s t : State} (h : execData d s = .next t) :
    (s.burst = none ∧ t = asBeat (raise (.illegalOp (cmdWord 0xFF (d.setWidth 32))) s)) ∨
      ∃ b, s.burst = some b ∧ takeBeat d false b s = .next t := by
  unfold execData at h
  split at h
  · exact .inl ⟨‹_›, by simpa using h.symm⟩
  · exact .inr ⟨_, ‹_›, h⟩

/-- TX_SEND faults, changing nothing else, or emits the frame and disarms. -/
theorem execTxSend_next {s t : State} (h : execTxSend s = .next t) :
    s.burst = none ∧
      ((∃ e, t = raise e s) ∨
        (s.tx.tarm = true ∧ s.tx.tlen.toNat ≤ s.cfg.txCapacity.toNat ∧
          t = respond 0 { s with txOut := s.txOut ++ outboundFrame s, tx := { s.tx with tarm := false } })) := by
  obtain ⟨hb, h⟩ := outsideBurst_next h
  refine ⟨hb, ?_⟩
  rcases txGuard_next h with ⟨ha, h⟩ | ⟨-, rfl⟩
  · split at h
    · cases h
    · exact .inr ⟨ha, by omega, by simpa using h.symm⟩
  · exact .inl ⟨_, rfl⟩

end Sys2Proof.Machine
end

