-- ==== Sys2Proof/Laws/Change.lean ====
section
/-! SUPPORT. What one item of a port can do to a state, as one list of cases, and what one step can do, as a chain of them:
an invariant of every step is two small goals (step_keeps). -/

namespace Sys2Proof.Machine

/-- The changes one item can make. -/
inductive Change (s : State) : State → Prop where
  | feed (b : Byte) (t : State) (h : execFeed b s = .next t) : Change s t
  | reset (h : s.txPending = 0) : Change s (clearResponse { forgetBuffers (release s) with burst := none })
  | ack (hb : s.burst = none) : Change s (respond 0 (release s))
  | fault (e : FaultEntry) : Change s (raise e s)
  | strayBeat (e : FaultEntry) (hb : s.burst = none) : Change s (asBeat (raise e s))
  | answer (v : Word32) : Change s (respond v s)
  | cursor (v : Word32) (n : Nat) (hc : s.rx.state = .complete) (hn : s.rx.rcur.toNat + n ≤ s.rx.rcnt.toNat) :
      Change s (respond v (advanceCursor n s))
  | begin (op8 : Byte) : Change s (respond 0 { s with tx := beginTx op8 s.tx })
  | result (res : TxResult) : Change s (respond 0 (setResult res s))
  | append (ds : List Byte) (ha : s.tx.tarm = true) (hn : s.tx.tlen.toNat + ds.length ≤ s.cfg.txCapacity.toNat) :
      Change s (respond 0 (appendBytes ds s))
  | opened (k : BurstKind) (n : Byte) (hn : n ≠ 0) :
      Change s (respond 0 { s with burst := some { kind := k, count := n, beats := [], bad := false } })
  | beat (d : Byte) (bad : Bool) (b : Burst) (hb : s.burst = some b)
      (hl : (b.push d bad).beats.length < b.count.toNat) :
      Change s (clearResponse { s with burst := some (b.push d bad) })
  | lastFault (e : FaultEntry) : Change s (asBeat (raise e { s with burst := none }))
  | lastAppend (ds : List Byte) (ha : s.tx.tarm = true)
      (hn : s.tx.tlen.toNat + ds.length ≤ s.cfg.txCapacity.toNat) :
      Change s (asBeat (respond 0 (appendBytes ds { s with burst := none })))
  | send (ha : s.tx.tarm = true) (hn : s.tx.tlen.toNat ≤ s.cfg.txCapacity.toNat) :
      Change s (respond 0 { s with txOut := s.txOut ++ outboundFrame s, tx := { s.tx with tarm := false } })

/-- A beat of an open burst is one of the changes. -/
theorem takeBeat_change {d : Byte} {bad : Bool} {b : Burst} {s t : State} (hb : s.burst = some b)
    (h : takeBeat d bad b s = .next t) : Change s t := by
  rcases takeBeat_next h with ⟨hl, rfl⟩ | ⟨-, ⟨e, rfl⟩ | ⟨-, ha, hn, rfl⟩⟩
  exacts [.beat d bad b hb hl, .lastFault e, .lastAppend _ ha hn]

/-- A read-port operation is one of the changes. -/
theorem readPort_change {i : Instr} {s t : State}
    (hi : i = .remaining ∨ i = .readU8 ∨ i = .readU16 ∨ i = .readU32 ∨ ∃ n, i = .advance n) (h : exec i s = .next t) :
    Change s t := by
  obtain ⟨-, ⟨e, rfl⟩ | ⟨hc, ⟨v, rfl⟩ | ⟨v, n, hn, rfl⟩⟩⟩ := readPort_next hi h
  exacts [.fault e, .answer v, .cursor v n hc hn]

/-- A TX write is one of the changes. -/
theorem txWrite_change {i : Instr} {s t : State}
    (hi : (∃ v, i = .txWriteU8 v) ∨ (∃ v, i = .txWriteU16 v) ∨ ∃ v, i = .txWriteU32 v) (h : exec i s = .next t) :
    Change s t := by
  obtain ⟨-, ⟨e, rfl⟩ | ⟨ds, ha, hn, rfl⟩⟩ := txWrite_next hi h
  exacts [.fault e, .append ds ha hn]

/-- The header of a burst is one of the changes. -/
theorem openBurst_change {k : BurstKind} {n : Byte} {s t : State} (h : openBurst k n s = .next t) : Change s t := by
  obtain ⟨-, ⟨-, ⟨e, rfl⟩ | ⟨ha, hn, rfl⟩⟩ | ⟨hn, rfl⟩⟩ := openBurst_next h
  exacts [.fault e, .append [] ha (by simpa using hn), .opened k n hn]

/-- Every operation that answers a next state makes one of the changes. -/
theorem exec_change {i : Instr} {s t : State} (h : exec i s = .next t) : Change s t := by
  cases i with
  | feed b => exact .feed b t h
  | reset =>
    obtain ⟨hp, rfl⟩ := execReset_next h
    exact .reset hp
  | ack =>
    obtain ⟨hb, rfl⟩ := execAck_next h
    exact .ack hb
  | remaining => exact readPort_change (by simp) h
  | readU8 => exact readPort_change (by simp) h
  | readU16 => exact readPort_change (by simp) h
  | readU32 => exact readPort_change (by simp) h
  | advance n => exact readPort_change (by simp) h
  | txBegin op8 =>
    obtain ⟨-, rfl⟩ := execTxBegin_next h
    exact .begin op8
  | txSetResult r =>
    obtain ⟨-, ⟨e, rfl⟩ | ⟨res, -, -, rfl⟩⟩ := execTxSetResult_next h
    exacts [.fault e, .result res]
  | txWriteU8 v => exact txWrite_change (by simp) h
  | txWriteU16 v => exact txWrite_change (by simp) h
  | txWriteU32 v => exact txWrite_change (by simp) h
  | txWriteBytes n => exact openBurst_change h
  | txWriteText n => exact openBurst_change h
  | txSend =>
    obtain ⟨-, ⟨e, rfl⟩ | ⟨ha, hn, rfl⟩⟩ := execTxSend_next h
    exacts [.fault e, .send ha hn]
  | data d =>
    rcases execData_next h with ⟨hb, rfl⟩ | ⟨b, hb, h⟩
    exacts [.strayBeat _ hb, takeBeat_change hb h]

/-- Every item of a port, the illegal ones too, makes one of the changes. -/
theorem runItem_change {it : Item} {s t : State} (h : runItem it s = .next t) : Change s t := by
  cases it with
  | rst => exact exec_change (i := .reset) h
  | rx b => exact exec_change (i := .feed b) h
  | cmd w =>
    simp only [runItem] at h
    split at h
    · exact exec_change h
    · rcases rejectWord_next h with ⟨hn, rfl | rfl⟩ | ⟨b, hb, h⟩
      exacts [.fault _, .strayBeat _ hn, takeBeat_change hb h]

/-! ## One step -/

/-- What a step does around an item: the environment, the response and the bytes still pending, and nothing else. -/
structure Quiet (s t : State) : Prop where
  frame : t = { s with env := t.env, rsp := t.rsp, txPending := t.txPending }
  pending : t.txPending ≤ s.txPending ∨ t.txPending ≤ t.txOut.length

theorem quiet_dropByte (s : State) : Quiet s (dropByte s) := ⟨rfl, .inl (Nat.le_refl _)⟩

theorem quiet_dropWord (s : State) : Quiet s (dropWord s) := ⟨rfl, .inl (Nat.le_refl _)⟩

theorem quiet_dropTurn (s : State) : Quiet s (dropTurn s) := ⟨rfl, .inl (Nat.le_refl _)⟩

theorem quiet_clearResponse (s : State) : Quiet s (clearResponse s) := ⟨rfl, .inl (Nat.le_refl _)⟩

theorem quiet_sinkTake (s : State) : Quiet s (sinkTake s) := ⟨rfl, .inl (Nat.sub_le _ _)⟩

theorem quiet_hold (s : State) (n : Nat) : Quiet s { s with txPending := s.txOut.length - n } :=
  ⟨rfl, .inr (Nat.sub_le _ _)⟩

section keeps

variable {P : State → Prop} (hq : ∀ a b, P a → Quiet a b → P b) (hc : ∀ a b, P a → Change a b → P b)
include hq hc

theorem takeByte_keeps {s t : State} (h0 : P s) (h : takeByte s = .next t) : P t := by
  unfold takeByte at h
  split at h
  · cases h
    exact h0
  · exact hc _ _ (hq _ _ h0 (quiet_dropByte s)) (runItem_change h)

theorem takeWord_keeps {s t : State} (h0 : P s) (h : takeWord s = .next t) : P t := by
  unfold takeWord at h
  split at h
  · cases h
    exact h0
  · exact hc _ _ (hq _ _ h0 (quiet_dropWord s)) (runItem_change h)

theorem edgeCommand_keeps {p : Pins} {s t : State} (h0 : P s) (h : edgeCommand p s = .next t) : P t := by
  have h1 : P (if p.txReady then sinkTake (clearResponse s) else clearResponse s) := by
    split
    · exact hq _ _ (hq _ _ h0 (quiet_clearResponse s)) (quiet_sinkTake _)
    · exact hq _ _ h0 (quiet_clearResponse s)
  unfold edgeCommand at h
  dsimp only at h
  generalize (if p.txReady then sinkTake (clearResponse s) else clearResponse s) = s1 at h h1
  split at h
  · cases hw : takeWord s1 with
    | next u =>
      rw [hw] at h
      cases h
      exact hq _ _ (takeWord_keeps hq hc h1 hw) (quiet_hold u _)
    | fault r => simp [hw, holdEmitted] at h
    | refused r => simp [hw, holdEmitted] at h
  · cases h
    exact h1

theorem clockEdge_keeps {p : Pins} {s t : State} (h0 : P s) (h : clockEdge p s = .next t) : P t := by
  unfold clockEdge at h
  split at h
  · exact hc _ _ h0 (runItem_change h)
  · split at h
    · rename_i u hu
      have h1 := edgeCommand_keeps hq hc h0 hu
      split at h
      · exact takeByte_keeps hq hc h1 h
      · cases h
        exact h1
    · cases h
    · cases h

/-- What every quiet change and every item keeps, every step keeps. -/
theorem step_keeps {s t : State} (h0 : P s) (h : step s = .next t) : P t := by
  unfold step nextTurn at h
  split at h
  · cases h
    exact h0
  · rename_i turn ts _
    have h1 := hq _ _ h0 (quiet_dropTurn s)
    cases turn with
    | environment => exact hc _ _ h1 (runItem_change (it := .rst) h)
    | source =>
      simp only [runTurn, sourceTurn] at h
      split at h
      · exact takeByte_keeps hq hc h1 h
      · cases h
        exact h1
    | consumer =>
      simp only [runTurn, consumerTurn] at h
      split at h
      · exact takeWord_keeps hq hc h1 h
      · cases h
        exact h1
    | edge p => exact clockEdge_keeps hq hc h1 h

end keeps

end Sys2Proof.Machine
end

