-- ==== Sys2Proof/Laws/Decode.lean ====
section
/-! SUPPORT. The fields of a command word, and the operand of each width. -/

namespace Sys2Proof

@[simp] theorem cmdOp_cmdWord (op : Byte) (arg : Word32) : cmdOp (cmdWord op arg) = op := by
  unfold cmdOp cmdWord
  ext i hi
  rw [BitVec.getElem_extractLsb', BitVec.getLsbD_append, if_neg (by omega), Nat.add_sub_cancel_left,
    BitVec.getLsbD_eq_getElem]

@[simp] theorem cmdArg_cmdWord (op : Byte) (arg : Word32) : cmdArg (cmdWord op arg) = arg := by
  unfold cmdArg cmdWord
  ext i hi
  rw [BitVec.getElem_extractLsb', BitVec.getLsbD_append, if_pos (by omega), Nat.zero_add,
    BitVec.getLsbD_eq_getElem]

/-- A command word is its two fields. -/
theorem cmdWord_fields (w : CmdWord) : cmdWord (cmdOp w) (cmdArg w) = w := by
  unfold cmdOp cmdArg cmdWord
  ext i hi
  rw [BitVec.getElem_append]
  split
  · rw [BitVec.getElem_extractLsb', Nat.zero_add, BitVec.getLsbD_eq_getElem]
  · rw [BitVec.getElem_extractLsb', show 32 + (i - 32) = i by omega, BitVec.getLsbD_eq_getElem]

/-- An operand placed in `arg` reads back. -/
theorem operand_cmdWord {k : Nat} (hk : k ≤ 32) (op : Byte) (v : BitVec k) (build : BitVec k → Instr) :
    operand k (cmdWord op (v.setWidth 32)) build = .ok (build v) := by
  have hv : (v.setWidth 32).toNat < 2 ^ k := by
    rw [BitVec.toNat_setWidth]
    exact Nat.lt_of_le_of_lt (Nat.mod_le _ _) v.isLt
  have hback : (v.setWidth 32).setWidth k = v := by
    rw [BitVec.setWidth_setWidth_of_le _ hk, BitVec.setWidth_eq]
  rw [operand, cmdArg_cmdWord, if_pos hv, hback]

/-- An operand accepted is the whole of `arg`. -/
theorem operand_ok {k : Nat} (hk : k ≤ 32) {w : CmdWord} {build : BitVec k → Instr} {i : Instr}
    (h : operand k w build = .ok i) : ∃ v : BitVec k, i = build v ∧ cmdArg w = v.setWidth 32 := by
  unfold operand at h
  split at h
  · rename_i hlt
    cases h
    refine ⟨_, rfl, BitVec.eq_of_toNat_eq ?_⟩
    simp only [BitVec.toNat_setWidth]
    rw [Nat.mod_eq_of_lt hlt, Nat.mod_eq_of_lt (by have := Nat.pow_le_pow_right (n := 2) (by decide) hk; omega)]
  · cases h

end Sys2Proof
end

