-- ==== Sys2Proof/Laws/PerInstr.lean ====
section
/-! SUPPORT. Statements made per instruction: the fields of each encoding, against the table of 30_encoding.md R82. -/

namespace Sys2Proof.Laws.EncodedFields

/-- The item lies on the command port, its `op` is `op`, and of `arg` at most the `bits` low bits are set (R82). -/
def OnCommandPort (op : Byte) (bits : Nat) (it : Item) : Prop :=
  ∃ w, it = .cmd w ∧ cmdOp w = op ∧ (cmdArg w).toNat < 2 ^ bits

/-- The port, the `op` and the operand's width of every row of R82, with FEED and RESET on their own ports (R81). -/
def Statement (i : Instr) : Prop :=
  match i with
  | .feed b => encode i = .rx b
  | .reset => encode i = .rst
  | .ack => OnCommandPort 0x01 0 (encode i)
  | .remaining => OnCommandPort 0x02 0 (encode i)
  | .readU8 => OnCommandPort 0x03 0 (encode i)
  | .readU16 => OnCommandPort 0x04 0 (encode i)
  | .readU32 => OnCommandPort 0x05 0 (encode i)
  | .advance _ => OnCommandPort 0x06 8 (encode i)
  | .txBegin _ => OnCommandPort 0x10 8 (encode i)
  | .txSetResult _ => OnCommandPort 0x11 2 (encode i)
  | .txWriteU8 _ => OnCommandPort 0x12 8 (encode i)
  | .txWriteU16 _ => OnCommandPort 0x13 16 (encode i)
  | .txWriteU32 _ => OnCommandPort 0x14 32 (encode i)
  | .txWriteBytes _ => OnCommandPort 0x15 8 (encode i)
  | .txWriteText _ => OnCommandPort 0x16 8 (encode i)
  | .txSend => OnCommandPort 0x17 0 (encode i)
  | .data _ => OnCommandPort 0xFF 8 (encode i)

/-- A command word built from an operand of `k` bits. -/
theorem onCommandPort_operand {k : Nat} (op : Byte) (v : BitVec k) :
    OnCommandPort op k (.cmd (cmdWord op (v.setWidth 32))) := by
  refine ⟨_, rfl, cmdOp_cmdWord _ _, ?_⟩
  rw [cmdArg_cmdWord, BitVec.toNat_setWidth]
  exact Nat.lt_of_le_of_lt (Nat.mod_le _ _) v.isLt

/-- A command word with no operand. -/
theorem onCommandPort_none (op : Byte) : OnCommandPort op 0 (.cmd (cmdWord op 0)) :=
  ⟨_, rfl, cmdOp_cmdWord _ _, by simp⟩

theorem feed (b : Byte) : Statement (.feed b) := rfl
theorem reset : Statement .reset := rfl
theorem ack : Statement .ack := onCommandPort_none _
theorem remaining : Statement .remaining := onCommandPort_none _
theorem readU8 : Statement .readU8 := onCommandPort_none _
theorem readU16 : Statement .readU16 := onCommandPort_none _
theorem readU32 : Statement .readU32 := onCommandPort_none _
theorem advance (n : Byte) : Statement (.advance n) := onCommandPort_operand _ n
theorem txBegin (op8 : Byte) : Statement (.txBegin op8) := onCommandPort_operand _ op8
theorem txSetResult (r : BitVec 2) : Statement (.txSetResult r) := onCommandPort_operand _ r
theorem txWriteU8 (v : Byte) : Statement (.txWriteU8 v) := onCommandPort_operand _ v
theorem txWriteU16 (v : Half) : Statement (.txWriteU16 v) := onCommandPort_operand _ v
theorem txWriteU32 (v : Word32) : Statement (.txWriteU32 v) :=
  ⟨_, rfl, cmdOp_cmdWord _ _, by rw [cmdArg_cmdWord]; exact v.isLt⟩
theorem txWriteBytes (n : Byte) : Statement (.txWriteBytes n) := onCommandPort_operand _ n
theorem txWriteText (n : Byte) : Statement (.txWriteText n) := onCommandPort_operand _ n
theorem txSend : Statement .txSend := onCommandPort_none _
theorem data (d : Byte) : Statement (.data d) := onCommandPort_operand _ d

end Sys2Proof.Laws.EncodedFields
end

