-- ==== Sys2Proof/Laws/Runs.lean ====
section
/-! SUPPORT. Lemmas about faults, sequences of operations, the XOR fold, and the parts of a state no operation looks at. -/

namespace Sys2Proof.Machine

/-! ## Faults -/

/-- Taking a fault does all of R205 and nothing else. -/
theorem raise_faulted (e : FaultEntry) (s : State) : Faulted e s (raise e s) :=
  ⟨rfl, rfl, rfl, rfl, ⟨rfl, rfl, rfl, rfl, rfl, rfl, rfl⟩⟩

/-- So does a fault reported on a beat. -/
theorem asBeat_raise_faulted (e : FaultEntry) (s : State) : Faulted e s (asBeat (raise e s)) :=
  ⟨rfl, rfl, rfl, rfl, ⟨rfl, rfl, rfl, rfl, rfl, rfl, rfl⟩⟩

/-! ## Memory -/

/-- Two runs of consecutive bytes are one. -/
theorem writeBytes_append (m : Memory) (a : Nat) (xs ys : List Byte) :
    m.writeBytes a (xs ++ ys) = (m.writeBytes a xs).writeBytes (a + xs.length) ys := by
  induction xs generalizing m a with
  | nil => rfl
  | cons x xs ih => simp [ih, Nat.add_assoc, Nat.add_comm 1]

/-- The reset state's buffers are in canonical form. -/
theorem reset_wf : State.reset.rx.rxbuf.wf ∧ State.reset.tx.txbuf.wf := ⟨List.Pairwise.nil, List.Pairwise.nil⟩

/-! ## Sequences of operations -/

theorem execAll_append {xs ys : List Instr} {s t : State} (h : execAll xs s = .next t) :
    execAll (xs ++ ys) s = execAll ys t := by
  induction xs generalizing s with
  | nil =>
    cases h
    rfl
  | cons x xs ih =>
    simp only [execAll, List.cons_append] at h ⊢
    split at h
    · exact ih h
    · cases h
    · cases h

theorem feedAll_cons {b : Byte} {bs : List Byte} {s t : State} (h : exec (.feed b) s = .next t) :
    feedAll (b :: bs) s = feedAll bs t := by
  simp [feedAll, execAll, h]

theorem feedAll_append {xs ys : List Byte} {s t : State} (h : feedAll xs s = .next t) :
    feedAll (xs ++ ys) s = feedAll ys t := by
  simp only [feedAll, List.map_append]
  exact execAll_append h

/-- FEED depends on the inbound registers and the capacities alone. -/
theorem execFeed_congr {b : Byte} {s u t : State} (h : u.rx = s.rx) (hc : u.cfg = s.cfg) (ht : execFeed b s = .next t) :
    execFeed b u = .next { u with rx := t.rx } := by
  unfold execFeed at ht ⊢
  rw [h, hc]
  cases hs : s.rx.state <;> simp only [hs] at ht ⊢
  case payload =>
    unfold feedPayload at ht ⊢
    rw [h, hc]
    split at ht
    · rename_i h1
      rw [if_pos h1]
      split at ht
      · rename_i h2
        rw [if_pos h2]
        cases ht
        rfl
      · cases ht
    · rename_i h1
      rw [if_neg h1]
      cases ht
      rfl
  case complete =>
    cases ht
    rw [← h, ← hc]
  case reserved => cases ht
  all_goals
    cases ht
    rfl

/-! ## The XOR fold (30_encoding.md R75: in any order of its operands) -/

theorem foldl_xor (p : List Byte) (x y : Byte) : p.foldl (· ^^^ ·) (x ^^^ y) = p.foldl (· ^^^ ·) x ^^^ y := by
  induction p generalizing x with
  | nil => rfl
  | cons b p ih =>
    simp only [List.foldl_cons]
    rw [← ih]
    congr 1
    rw [BitVec.xor_assoc, BitVec.xor_comm y b, ← BitVec.xor_assoc]

/-- A byte changed by a mask changes the fold by that mask. -/
theorem foldl_xor_set {p : List Byte} {i : Nat} {b : Byte} (m x : Byte) (h : p[i]? = some b) :
    (p.set i (b ^^^ m)).foldl (· ^^^ ·) x = p.foldl (· ^^^ ·) x ^^^ m := by
  induction p generalizing i x with
  | nil => simp at h
  | cons c p ih =>
    cases i with
    | zero =>
      simp at h
      subst h
      simp only [List.set_cons_zero, List.foldl_cons]
      rw [← BitVec.xor_assoc, foldl_xor]
    | succ i =>
      simp only [List.set_cons_succ, List.foldl_cons]
      exact ih _ (by simpa using h)

/-! ## What no operation but RESET looks at: the response, the bytes pending and the turns -/

/-- The state with those three at fixed values. -/
def bare (s : State) : State :=
  { s with rsp := ⟨false, 0, false⟩, txPending := 0, env := { s.env with turns := [] } }

/-- The command port never decodes to RESET or FEED (30_encoding.md R81). -/
theorem decodeCmd_port {w : CmdWord} {i : Instr} (h : decodeCmd w = .ok i) : i ≠ .reset ∧ ∀ b, i ≠ .feed b := by
  unfold decodeCmd at h
  split at h
  case h_8 =>
    unfold resultOperand at h
    split at h
    · split at h <;> cases h
      simp
    · cases h
  case h_11 =>
    cases h
    simp
  case h_16 => cases h
  all_goals
    obtain ⟨v, rfl, -⟩ := operand_ok (by decide) h
    simp

theorem exec_bare {i : Instr} (s : State) (h : i ≠ .reset) :
    onNext bare (exec i s) = onNext bare (exec i (bare s)) := by
  obtain ⟨cfg, ⟨st, d, o, e, c, r, cs, buf, a⟩, ⟨q1, q2, q3, q4, q5⟩, f, fl, out, bu, rsp, p, ep, env⟩ := s
  cases i with
  | reset => exact absurd rfl h
  | feed b =>
    cases st <;> simp only [exec, execFeed, bare]
    case payload => simp only [feedPayload]; split <;> [(split <;> rfl); rfl]
    all_goals rfl
  | txSetResult q =>
    simp only [exec, execTxSetResult, outsideBurst, txGuard, bare]
    repeat' split
    all_goals first | rfl | contradiction | (simp_all; done) | (simp_all; rfl)
  | data d =>
    simp only [exec, execData, bare]
    split
    · rfl
    · simp only [takeBeat, commitBurst, writeField, txGuard, writeBound]
      split <;> [rfl; (split <;> [rfl; (split <;> [(split <;> rfl); rfl])])]
  | _ =>
    simp only [exec, execAck, execRemaining, execReadU8, execReadU16, execReadU32, execAdvance, readField, readPortGuard,
      readBound, execTxBegin, execTxSend, execTxWriteU8, execTxWriteU16, execTxWriteU32, execTxWriteBytes,
      execTxWriteText, openBurst, outsideBurst, writeField, txGuard, writeBound, bare]
    repeat' split
    all_goals
      first
      | rfl
      | contradiction
      | (simp_all; done)
      | ((simp_all; try rfl) <;> (repeat' split) <;> first | rfl | omega)

theorem rejectWord_bare (w : CmdWord) (s : State) :
    onNext bare (rejectWord w s) = onNext bare (rejectWord w (bare s)) := by
  simp only [rejectWord, bare]
  split
  · split <;> rfl
  · split
    · simp only [takeBeat, commitBurst, writeField, txGuard, writeBound]
      split <;> [rfl; (split <;> [rfl; (split <;> [(split <;> rfl); rfl])])]
    · rfl

theorem runItem_bare {it : Item} (s : State) (h : it ≠ .rst) :
    onNext bare (runItem it s) = onNext bare (runItem it (bare s)) := by
  cases it with
  | rst => exact absurd rfl h
  | rx b => exact exec_bare (i := .feed b) s (by simp)
  | cmd w =>
    simp only [runItem]
    split
    · exact exec_bare s (decodeCmd_port ‹_›).1
    · exact rejectWord_bare w s

theorem takeByte_bare (s : State) : onNext bare (takeByte s) = onNext bare (takeByte (bare s)) := by
  simp only [takeByte, bare]
  split
  · rfl
  · exact runItem_bare (dropByte s) (by simp)

theorem takeWord_bare (s : State) : onNext bare (takeWord s) = onNext bare (takeWord (bare s)) := by
  simp only [takeWord, bare]
  split
  · rfl
  · exact runItem_bare (dropWord s) (by simp)

end Sys2Proof.Machine
end

