-- ==== Sys2Proof/Tests/Slice0.lean ====
section
/-! SUPPORT. Tests. Words are written out bit by bit from 30_encoding.md R82; every expected result is one of
95_test_vectors.md (its id stands in the comment) or is worked out by hand from the rule named. -/

open Sys2Proof Sys2Proof.Machine

namespace Sys2Proof.Tests

/-! ## WellFormed smoke: the one ill-formed term is refused (R85) -/

theorem test_wf_refuses_result_3 : (Instr.txSetResult 3#2).wf = false := by decide
theorem test_wf_accepts_results : [0#2, 1#2, 2#2].all (fun r => (Instr.txSetResult r).wf) = true := by decide

/-! ## Decoding: one word of every row -/

theorem test_decode_feed : decodeTableWord 8 0b00100100 = some (.feed 0x24) := by decide
theorem test_decode_reset : decodeTableWord 8 0b1 = some .reset ∧ decodeTableWord 1 0b1 = some .reset := by decide
theorem test_decode_ack : decodeTableWord 40 0b00000001_00000000_00000000_00000000_00000000 = some .ack := by decide
theorem test_decode_remaining :
    decodeTableWord 40 0b00000010_00000000_00000000_00000000_00000000 = some .remaining := by decide
theorem test_decode_readU8 :
    decodeTableWord 40 0b00000011_00000000_00000000_00000000_00000000 = some .readU8 := by decide
theorem test_decode_readU16 :
    decodeTableWord 40 0b00000100_00000000_00000000_00000000_00000000 = some .readU16 := by decide
theorem test_decode_readU32 :
    decodeTableWord 40 0b00000101_00000000_00000000_00000000_00000000 = some .readU32 := by decide
theorem test_decode_advance :
    decodeTableWord 40 0b00000110_00000000_00000000_00000000_10000011 = some (.advance 131) := by decide
theorem test_decode_txBegin :
    decodeTableWord 40 0b00010000_00000000_00000000_00000000_11111110 = some (.txBegin 254) := by decide
theorem test_decode_txSetResult :
    decodeTableWord 40 0b00010001_00000000_00000000_00000000_00000010 = some (.txSetResult 2#2) := by decide
theorem test_decode_txWriteU8 :
    decodeTableWord 40 0b00010010_00000000_00000000_00000000_01010101 = some (.txWriteU8 85) := by decide
theorem test_decode_txWriteU16 :
    decodeTableWord 40 0b00010011_00000000_00000000_10101011_11001101 = some (.txWriteU16 43981) := by decide
theorem test_decode_txWriteU32 :
    decodeTableWord 40 0b00010100_00010001_00100010_00110011_01000100 = some (.txWriteU32 287454020) := by decide
theorem test_decode_txWriteBytes :
    decodeTableWord 40 0b00010101_00000000_00000000_00000000_00000011 = some (.txWriteBytes 3) := by decide
theorem test_decode_txWriteText :
    decodeTableWord 40 0b00010110_00000000_00000000_00000000_00000100 = some (.txWriteText 4) := by decide
theorem test_decode_txSend :
    decodeTableWord 40 0b00010111_00000000_00000000_00000000_00000000 = some .txSend := by decide
theorem test_decode_data :
    decodeTableWord 40 0b11111111_00000000_00000000_00000000_00101010 = some (.data 42) := by decide

/-- V-E2, V-E3: undefined `op`. -/
theorem test_decode_undefined :
    [0x00#8, 0x07#8, 0x0F#8, 0x18#8, 0xFE#8].all
      (fun op => decode (.cmd (cmdWord op 0)) == .rejected (.undefinedOp op)) = true := by decide

/-- V-E5, V-E6, V-E14, V-A5: a reserved arg bit; V-T3: the result 3. -/
theorem test_decode_reserved :
    [0x0600000103#40, 0x1200000155#40, 0x1100000004#40, 0x0100000001#40].all
      (fun w => decode (.cmd w) == .rejected .reservedArgBits) = true ∧
    decode (.cmd 0x1100000003#40) = .rejected .reservedResult := by decide

/-! ## States -/

/-- The parser in `p`, after reset. -/
def parserIn (p : Phase) : State := { State.reset with rx := { State.reset.rx with state := p, act := p != .idle } }

/-- `PAYLOAD` as V-F11 starts it. -/
def midPayload : State :=
  { State.reset with rx := { State.reset.rx with state := .payload, elen := 2, csum := 0x12, act := true } }

/-- The P-frame of section 2.2, held in `COMPLETE`. -/
def pFrame : State :=
  { State.reset with
    rx := { state := .complete, dir := .command, opc := 0x64, elen := 7, rcnt := 7, rcur := 0, csum := 0xE6,
            rxbuf := [(0, 0x34), (1, 0x12), (2, 0x78), (3, 0x56), (4, 0x34), (5, 0x12), (6, 0xAB)], act := true } }

/-- The P-frame with its cursor moved. -/
def pFrameAt (rcur : Byte) : State := { pFrame with rx := { pFrame.rx with rcur := rcur } }

/-- The Q-frame of section 2.2. -/
def qFrame : State :=
  { State.reset with
    rx := { state := .complete, dir := .command, opc := 0x09, elen := 3, rcnt := 3, rcur := 0, csum := 0x0B,
            rxbuf := [(0, 0x01), (1, 0x02), (2, 0x03)], act := true } }

/-- A message begun with opcode `op8` and the bytes `ds` written. -/
def armed (op8 : Byte) (ds : List Byte) : State :=
  { State.reset with
    tx := { topc := op8, tres := .ok, tlen := BitVec.ofNat 8 ds.length, txbuf := Memory.writeBytes [] 0 ds, tarm := true } }

/-- `TX_CAPACITY` changed. -/
def withTxCapacity (n : Byte) (s : State) : State := { s with cfg := { s.cfg with txCapacity := n } }

/-- `RX_CAPACITY` changed. -/
def withRxCapacity (n : Byte) (s : State) : State := { s with cfg := { s.cfg with rxCapacity := n } }

/-- A burst open. -/
def inBurst (b : Burst) (s : State) : State := { s with burst := some b }

/-- The two-beat burst of V-E8 after its first beat. -/
def halfBurst : Burst := { kind := .bytes, count := 2, beats := [0xAA], bad := false }

/-- The turns of the agents. -/
def withTurns (ts : List Turn) (s : State) : State := { s with env := { s.env with turns := ts } }

/-- What the test looks at in the next state; none where there is none. -/
def after {α : Type} (r : Result) (f : State → α) : Option α :=
  match r with
  | .next t => some (f t)
  | .fault _ => none
  | .refused _ => none

/-! ## One step of each operation -/

/-- V-F11. -/
theorem test_feed_payload :
    after (exec (.feed 0xAA) midPayload) (fun t => (t.rx.state, t.rx.rxbuf, t.rx.csum, t.rx.rcnt, t.rx.act)) =
      some (.payload, [(0, 0xAA)], 0xB8, 1, true) := by decide

/-- V-F4: a second `'$'` is no restart. -/
theorem test_feed_second_sync :
    after (exec (.feed 0x24) (parserIn .sync1)) (fun t => (t.rx.state, t.rx.act)) = some (.idle, false) := by decide

/-- V-A6, and 70_reset_and_hazards.md R230's example. -/
theorem test_reset_midframe :
    after (exec .reset { midPayload with rx := { midPayload.rx with rcnt := 3 }, fault := .illegalOp })
      (fun t => (t.rx, t.tx, t.fault)) = some (State.reset.rx, State.reset.tx, .none) := by decide

/-- V-A1, with the log kept (R206) and the buffer unchanged (R42). -/
theorem test_ack_releases :
    after (exec .ack { pFrameAt 7 with fault := .rdOverrun, faultLog := [.rdOverrun 7 1] })
      (fun t => (t.rx, t.fault, t.faultLog)) =
      some ({ State.reset.rx with rxbuf := pFrame.rx.rxbuf }, .none, [.rdOverrun 7 1]) := by decide

/-- V-A3: an unsent message is lost without a fault. -/
theorem test_ack_disarms :
    after (exec .ack (armed 1 [1, 2, 3])) (fun t => (t.tx.tarm, t.tx.tlen, t.fault, t.txOut)) =
      some (false, 0, .none, []) := by decide

/-- V-R3. -/
theorem test_remaining : after (exec .remaining (pFrameAt 6)) (fun t => t.rsp) = some ⟨true, 1, false⟩ := by decide

/-- V-R10. -/
theorem test_remaining_not_ready :
    after (exec .remaining (parserIn .sync2)) (fun t => (t.rsp, t.fault, t.faultLog)) =
      some (⟨true, 0, true⟩, .rdNotReady, [.rdNotReady .sync2]) := by decide

/-- V-R4. -/
theorem test_readU8 :
    after (exec .readU8 (pFrameAt 6)) (fun t => (t.rsp.data, t.rx.rcur)) = some (0x000000AB, 7) := by decide

/-- V-R5. -/
theorem test_readU8_overrun :
    after (exec .readU8 (pFrameAt 7)) (fun t => (t.rsp, t.rx.rcur, t.fault)) =
      some (⟨true, 0, true⟩, 7, .rdOverrun) := by decide

/-- V-R1. -/
theorem test_readU16 :
    after (exec .readU16 pFrame) (fun t => (t.rsp.data, t.rx.rcur)) = some (0x00001234, 2) := by decide

/-- V-R7: one byte left, the first fault kept. -/
theorem test_readU16_overrun :
    after (exec .readU16 { qFrame with rx := { qFrame.rx with rcur := 2 }, fault := .txNotArmed })
      (fun t => (t.rx.rcur, t.fault, t.faultLog)) = some (2, .txNotArmed, [.rdOverrun 2 2]) := by decide

/-- V-R2. -/
theorem test_readU32 :
    after (exec .readU32 (pFrameAt 2)) (fun t => (t.rsp.data, t.rx.rcur)) = some (0x12345678, 6) := by decide

/-- V-R6. -/
theorem test_readU32_overrun :
    after (exec .readU32 qFrame) (fun t => (t.rx.rcur, t.faultLog)) = some (0, [.rdOverrun 0 4]) := by decide

/-- V-R8. -/
theorem test_advance_to_end : after (exec (.advance 3) qFrame) (fun t => (t.rx.rcur, t.fault)) = some (3, .none) := by decide

/-- V-R13: 250 + 10 does not wrap. -/
theorem test_advance_no_wrap :
    after (exec (.advance 10) (withRxCapacity 255
        { pFrame with rx := { pFrame.rx with elen := 255, rcnt := 255, rcur := 250 } }))
      (fun t => (t.rx.rcur, t.fault)) = some (250, .rdOverrun) := by decide

/-- V-T14. -/
theorem test_txBegin_discards :
    after (exec (.txBegin 0x22) (armed 0x10 [1, 2, 3, 4, 5])) (fun t => (t.tx.topc, t.tx.tlen, t.tx.tarm)) =
      some (0x22, 0, true) := by decide

/-- V-T9's TX_SET_RESULT Error. -/
theorem test_txSetResult_error :
    after (exec (.txSetResult 1#2) (armed 0x0B [])) (fun t => (t.tx.tres, t.tx.tlen)) = some (.error, 0) := by decide

/-- V-T3: checked before `TARM`. -/
theorem test_txSetResult_illegal :
    after (exec (.txSetResult 3#2) State.reset) (fun t => (t.fault, t.faultLog)) =
      some (.illegalOp, [.illegalOp 0x1100000003]) := by decide

/-- V-T5's TX_WRITE_U8 9A. -/
theorem test_txWriteU8_fits :
    after (exec (.txWriteU8 0x9A) (withTxCapacity 3 (armed 1 [0x34, 0x12]))) (fun t => (t.tx.tlen, t.tx.txbuf)) =
      some (3, [(0, 0x34), (1, 0x12), (2, 0x9A)]) := by decide

/-- V-T6: no room at all. -/
theorem test_txWriteU8_capacity_0 :
    after (exec (.txWriteU8 1) (withTxCapacity 0 (armed 7 []))) (fun t => (t.tx.tlen, t.fault)) =
      some (0, .wrOverflow) := by decide

/-- 42_tx_framer.md R174's example: `CD AB` at 4 and 5. -/
theorem test_txWriteU16 :
    after (exec (.txWriteU16 0xABCD) (armed 0x64 [0x44, 0x33, 0x22, 0x11]))
      (fun t => (t.tx.tlen, t.tx.txbuf.drop 4)) = some (6, [(4, 0xCD), (5, 0xAB)]) := by decide

/-- V-T4: rejected, not clipped. -/
theorem test_txWriteU16_not_clipped :
    after (exec (.txWriteU16 0x5678) (withTxCapacity 3 (armed 1 [0x34, 0x12])))
      (fun t => (t.tx.tlen, t.tx.txbuf, t.faultLog)) = some (2, [(0, 0x34), (1, 0x12)], [.wrOverflow 2 2]) := by decide

/-- V-T7's TX_WRITE_U32. -/
theorem test_txWriteU32 :
    after (exec (.txWriteU32 0x11223344) (armed 0x64 [])) (fun t => (t.tx.tlen, t.tx.txbuf)) =
      some (4, [(0, 0x44), (1, 0x33), (2, 0x22), (3, 0x11)]) := by decide

/-- V-T2: not armed. -/
theorem test_txWriteU32_not_armed :
    after (exec (.txWriteU32 1) State.reset) (fun t => (t.tx, t.fault)) = some (State.reset.tx, .txNotArmed) := by decide

/-- V-E8's header. -/
theorem test_txWriteBytes_opens :
    after (exec (.txWriteBytes 2) (armed 1 [])) (fun t => (t.burst, t.tx.tlen)) =
      some (some { kind := .bytes, count := 2, beats := [], bad := false }, 0) := by decide

/-- V-T6's empty burst at a full buffer. -/
theorem test_txWriteBytes_empty :
    after (exec (.txWriteBytes 0) (withTxCapacity 0 (armed 7 []))) (fun t => (t.burst, t.tx.tlen, t.fault)) =
      some (none, 0, .none) := by decide

/-- V-T8's header. -/
theorem test_txWriteText_opens :
    after (exec (.txWriteText 4) (armed 2 [])) (fun t => t.burst) =
      some (some { kind := .text, count := 4, beats := [], bad := false }) := by decide

/-- V-E12. -/
theorem test_txWriteText_not_armed :
    after (exec (.txWriteText 0) State.reset) (fun t => (t.fault, t.burst)) = some (.txNotArmed, none) := by decide

/-- V-E8: the second beat writes both bytes. -/
theorem test_data_last_beat :
    after (exec (.data 0xBB) (inBurst halfBurst (armed 1 []))) (fun t => (t.tx.tlen, t.tx.txbuf, t.burst)) =
      some (2, [(0, 0xAA), (1, 0xBB)], none) := by decide

/-- V-E4. -/
theorem test_data_stray :
    after (exec (.data 0xAA) State.reset) (fun t => (t.fault, t.faultLog)) =
      some (.illegalOp, [.illegalOp 0xFF000000AA]) := by decide

/-- V-T9: the `Error` frame. -/
theorem test_txSend_error :
    after (exec .txSend { armed 0x0B [0xEF, 0xBE, 0xAD, 0xDE] with
        tx := { (armed 0x0B [0xEF, 0xBE, 0xAD, 0xDE]).tx with tres := .error } }) (fun t => (t.txOut, t.tx.tarm)) =
      some ([0x24, 0x4D, 0x21, 0x04, 0x0B, 0xEF, 0xBE, 0xAD, 0xDE, 0x2D], false) := by decide

/-- V-T13: a second send faults. -/
theorem test_txSend_twice :
    after (exec .txSend { armed 0x64 [1] with tx := { (armed 0x64 [1]).tx with tarm := false } })
      (fun t => (t.txOut, t.fault)) = some ([], .txNotArmed) := by decide

/-! ## Items, turns and edges -/

/-- V-E9: a bad second beat spoils the burst. -/
theorem test_bad_beat :
    after (runItem (.cmd 0xFF000001BB) (inBurst halfBurst (armed 1 []))) (fun t => (t.fault, t.tx.tlen, t.burst)) =
      some (.illegalOp, 0, none) := by decide

/-- V-E10. -/
theorem test_command_in_burst :
    (match runItem (.cmd 0x1700000000) (inBurst halfBurst (armed 1 [])) with
      | .refused r => r == .burstInterrupted
      | .next _ => false
      | .fault _ => false) = true := by decide

/-- V-E11. -/
theorem test_reset_closes_burst :
    after (runItem .rst (inBurst halfBurst (armed 1 []))) (fun t => (t.burst, t.tx)) =
      some (none, State.reset.tx) := by decide

/-- V-F21 as a step: the byte stays with its source. -/
theorem test_step_stall :
    after (step (pFrame.withFetchWord 8 0x41)) (fun t => (t.rx, t.env.rxIn)) = some (pFrame.rx, [0x41]) := by decide

/-- V-T1 as a step after reset. -/
theorem test_step_runs_table_word :
    after (step (State.reset.withFetchWord 40 0x1000000001)) (fun t => (t.tx.topc, t.tx.tarm, t.env)) =
      some (1, true, State.reset.env) := by decide

/-- 60_exceptions.md R208 (b): an ACK and a FEED at one edge, the FEED parsed from `IDLE` (here from `SYNC_2`, whose
`rx_ready` is 1). -/
theorem test_edge_ack_then_feed :
    after (step { parserIn .sync2 with
        env := { rxIn := [0x24], cmdIn := [0x0100000000], turns := [.edge ⟨false, true, true, false⟩] } })
      (fun t => (t.rx.state, t.rx.act, t.rsp.valid)) = some (.sync1, true, true) := by decide

/-- R208 (a): RESET wins, and nothing offered is taken. -/
theorem test_edge_reset_wins :
    after (step { pFrame with
        env := { rxIn := [0x24], cmdIn := [0x0200000000], turns := [.edge ⟨true, true, true, true⟩] } })
      (fun t => (t.rx.state, t.env.rxIn, t.env.cmdIn)) = some (.idle, [0x24], [0x0200000000]) := by decide

/-- R87: an edge that takes TX_SEND leaves six bytes pending and `cmd_ready` 0. -/
theorem test_edge_send :
    after (step { armed 7 [] with
        env := { rxIn := [], cmdIn := [0x1700000000], turns := [.edge ⟨false, false, true, true⟩] } })
      (fun t => (t.txPending, cmdReady t, (portOutputs t).txData, wireOut t)) = some (6, false, some 0x24, []) := by decide

end Sys2Proof.Tests

/-! ## Witnesses: for every statement with hypotheses, a state and operands that meet all of them together -/

namespace Sys2Proof.Tests

/-- `RXBUF[0]` and `TXBUF[0]` written before. -/
def written : State :=
  { midPayload with rx := { midPayload.rx with rxbuf := [(0, 0x11)] }
                    tx := { State.reset.tx with txbuf := [(0, 0x22)], tarm := true } }

/-- A frame begun: the invariants hold in it. -/
def begun : State :=
  { State.reset with
    rx := { state := .payload, dir := .command, opc := 0x10, elen := 2, rcnt := 1, rcur := 0, csum := 0xB8,
            rxbuf := [(0, 0xAA)], act := true } }

theorem begun_machineInv : MachineInv begun where
  cursors := ⟨by decide, by decide, by decide, by decide⟩
  writeCursor := by unfold WriteCursorBound; decide
  canonical := ⟨by decide, by decide, by decide, by decide⟩
  written := ⟨by decide, by decide⟩
  burst := fun _ h => by cases h
  logged := fun h => absurd rfl h
  pending := by decide

theorem begun_frameInv : FrameInv begun where
  act_iff_active := by decide
  header := by decide
  folded := by decide
  unread := by decide
  full := by decide

theorem pFrame_frameInv : FrameInv pFrame where
  act_iff_active := by decide
  header := by decide
  folded := by decide
  unread := by decide
  full := by decide

theorem witness_DecodeInvertsEncode : (Instr.txSetResult 2#2).wf = true ∧ (Instr.txWriteU32 0xFFFFFFFF).wf = true := by
  decide

theorem witness_EncodeInvertsDecode :
    decode (.cmd 0x14FFFFFFFF#40) = .ok (.txWriteU32 0xFFFFFFFF) ∧ decode (.cmd 0xFF000000FF#40) = .ok (.data 255) := by
  decide

/-- Both sides of every clause at the ends of its range. -/
theorem witness_RejectedWordsAreTheIllegalOnes :
    [0x0000000000#40, 0x07FFFFFFFF#40, 0x0F00000000#40, 0x1800000000#40, 0xFE00000000#40].all
      (fun w => decode (.cmd w) == .rejected (.undefinedOp (cmdOp w))) = true ∧
    decode (.cmd 0x1100000003#40) = .rejected .reservedResult ∧
    [0x0100000001#40, 0x1780000000#40, 0x0600000100#40, 0xFF00000100#40, 0x1100000004#40, 0x1300010000#40].all
      (fun w => decode (.cmd w) == .rejected .reservedArgBits) = true ∧
    [0x0600000000#40, 0x10000000FF#40, 0x1100000002#40, 0x130000FFFF#40, 0x14FFFFFFFF#40, 0x1700000000#40].all
      (fun w => match decode (.cmd w) with | .ok _ => true | .rejected _ => false) = true := by
  decide

/-- A word of an undefined `op` offered. -/
def illegalOffered : State :=
  { State.reset with env := { rxIn := [], cmdIn := [0x0700000000], turns := [.consumer] } }

/-- One state for each clause; the rejected word outside a burst, and one inside a burst. -/
theorem witness_StepRunsTakenItem :
    State.reset.env.turns = [] ∧
    (withTurns [.environment] State.reset).env.turns = .environment :: [] ∧
    ((State.reset.withFetchWord 8 0x24).env.turns = .source :: [] ∧
      (State.reset.withFetchWord 8 0x24).env.rxIn = 0x24 :: [] ∧
      (State.reset.withFetchWord 8 0x24).rx.state ≠ .complete) ∧
    ((withTurns [.source] pFrame).env.turns = .source :: [] ∧ (withTurns [.source] pFrame).rx.state = .complete) ∧
    ((withTurns [.source] State.reset).env.turns = .source :: [] ∧ (withTurns [.source] State.reset).env.rxIn = []) ∧
    ((State.reset.withFetchWord 40 0x0100000000).env.turns = .consumer :: [] ∧
      (State.reset.withFetchWord 40 0x0100000000).env.cmdIn = 0x0100000000 :: [] ∧
      (State.reset.withFetchWord 40 0x0100000000).txPending = 0 ∧ decode (.cmd 0x0100000000) = .ok .ack) ∧
    (illegalOffered.env.turns = .consumer :: [] ∧ illegalOffered.env.cmdIn = 0x0700000000 :: [] ∧
      illegalOffered.txPending = 0 ∧ decode (.cmd 0x0700000000) = .rejected (.undefinedOp 0x07) ∧
      illegalOffered.burst = none ∧ (inBurst halfBurst illegalOffered).burst.isSome = true ∧
      cmdOp 0x0700000000 ≠ 0xFF) ∧
    ((withTurns [.consumer] { State.reset with txPending := 1 }).env.turns = .consumer :: [] ∧
      (withTurns [.consumer] { State.reset with txPending := 1 }).txPending ≠ 0) ∧
    ((withTurns [.consumer] State.reset).env.turns = .consumer :: [] ∧ (withTurns [.consumer] State.reset).env.cmdIn = []) ∧
    (withTurns [.edge ⟨true, true, true, true⟩] State.reset).env.turns = .edge ⟨true, true, true, true⟩ :: [] := by
  decide

theorem witness_IllegalItemRaisesIllegalOp :
    State.reset.burst = none ∧ (cmdOp 0x1700000001 ∈ [0x17#8] ∧ cmdArg 0x1700000001 ≠ 0) ∧
    (cmdOp 0x0600000100 ∈ [0x06#8] ∧ 2 ^ 8 ≤ (cmdArg 0x0600000100).toNat) ∧
    (cmdOp 0x1100000004 = 0x11 ∧ 2 ^ 2 ≤ (cmdArg 0x1100000004).toNat) ∧
    (cmdOp 0x1300010000 = 0x13 ∧ 2 ^ 16 ≤ (cmdArg 0x1300010000).toNat) ∧
    cmdOp 0x0000000000 = 0x00 ∧ (cmdOp 0x0700000000).toNat = 0x07 ∧ (cmdOp 0x0F00000000).toNat = 0x0F ∧
    (cmdOp 0x1800000000).toNat = 0x18 ∧ (cmdOp 0xFE00000000).toNat = 0xFE ∧ cmdOp 0xFF000000AA = 0xFF :=
  ⟨rfl, ⟨by simp; decide, by decide⟩,
    ⟨by simp; decide, by decide⟩, by decide, by decide, by decide, by decide, by decide,
    by decide, by decide, by decide⟩

theorem witness_FeedSyncBytes :
    ((parserIn .idle).rx.state = .idle ∧ (0x24 : Byte) = 0x24) ∧ ((parserIn .idle).rx.state = .idle ∧ (0x25 : Byte) ≠ 0x24) ∧
    ((parserIn .sync1).rx.state = .sync1 ∧ (0x4D : Byte) = 0x4D) ∧
    ((parserIn .sync1).rx.state = .sync1 ∧ (0x24 : Byte) ≠ 0x4D) := by
  decide

theorem witness_FeedDirectionByte :
    (parserIn .sync2).rx.state = .sync2 ∧ (0x21 : Byte) ≠ 0x3C ∧ (0x21 : Byte) ≠ 0x3E := by
  decide

/-- The length at the capacity, and one above it. -/
theorem witness_FeedLengthByte :
    (parserIn .direction).rx.state = .direction ∧ (0x40 : Byte).toNat ≤ (parserIn .direction).cfg.rxCapacity.toNat ∧
      (parserIn .direction).cfg.rxCapacity.toNat < (0x41 : Byte).toNat := by
  decide

theorem witness_FeedOpcodeByte : (parserIn .length).rx.state = .length := by decide

/-- The last payload byte. -/
theorem witness_FeedPayloadByte :
    begun.rx.state = .payload ∧ begun.rx.rcnt.toNat < begun.rx.elen.toNat ∧ begun.rx.rcnt.toNat + 1 = begun.rx.elen.toNat ∧
      begun.rx.elen.toNat ≤ begun.cfg.rxCapacity.toNat := by
  decide

theorem witness_FeedChecksumByte :
    (parserIn .payload).rx.state = .payload ∧ (parserIn .payload).rx.rcnt = (parserIn .payload).rx.elen ∧
      (0x00 : Byte) = (parserIn .payload).rx.csum ∧ (0x01 : Byte) ≠ (parserIn .payload).rx.csum := by
  decide

theorem witness_FeedStallsUntilAckOrReset :
    pFrame.rx.state = .complete ∧ (withTurns [.source] pFrame).env.turns = .source :: [] ∧
      ∃ t, exec .ack pFrame = .next t ∧ t.rx.state ≠ .complete :=
  ⟨rfl, rfl, _, rfl, by decide⟩

theorem witness_FeedSetsAct : ∃ t, begun.rx.state ≠ .complete ∧ exec (.feed 0x55) begun = .next t :=
  ⟨_, by decide, rfl⟩

theorem witness_FramingErrorKeepsRegisters :
    ∃ t, (parserIn .sync1).rx.state ≠ .idle ∧ exec (.feed 0x24) (parserIn .sync1) = .next t ∧ t.rx.state = .idle :=
  ⟨_, by decide, rfl, rfl⟩

/-- The clauses of the frame of FEED: in `PAYLOAD` an index other than `RCNT`, and a state other than each named one. -/
theorem witness_FeedFrame :
    ∃ t u, exec (.feed 0x55) begun = .next t ∧ (0 : Nat) ≠ begun.rx.rcnt.toNat ∧
      begun.rx.state ≠ .sync2 ∧ begun.rx.state ≠ .length ∧ begun.rx.state ≠ .direction ∧
      exec (.feed 0x24) State.reset = .next u ∧ State.reset.rx.state ≠ .payload ∧ State.reset.rx.state ≠ .direction ∧
      State.reset.rx.state ≠ .length :=
  ⟨_, _, rfl, by decide, by decide, by decide, by decide, rfl, by decide, by decide, by decide⟩

theorem witness_RxBufferWrittenByFeedOnly :
    ∃ t, Instr.feed 0xAA ≠ .reset ∧ exec (.feed 0xAA) written = .next t ∧ rxByte t 0 ≠ rxByte written 0 :=
  ⟨_, by decide, rfl, by decide⟩

theorem witness_TxBufferWrittenByTxWritesOnly :
    ∃ t, Instr.txWriteU8 0xAA ≠ .reset ∧ exec (.txWriteU8 0xAA) written = .next t ∧ txByte t 0 ≠ txByte written 0 :=
  ⟨_, by decide, rfl, by decide⟩

theorem witness_AckReleasesFrame :
    pFrame.burst = none ∧ (1 : Word32) ≠ 0 ∧ (inBurst halfBurst (armed 1 [])).burst.isSome = true := by
  decide

theorem witness_ReadPortNeedsComplete :
    isReadPort .readU32 = true ∧ (parserIn .sync2).burst = none ∧ (parserIn .sync2).rx.state ≠ .complete ∧
      (parserIn .sync2).rx.state ≠ .reserved := by
  decide

/-- Nothing left, and all of the frame left. -/
theorem witness_RemainingReturnsUnreadCount :
    ((pFrameAt 7).burst = none ∧ (pFrameAt 7).rx.state = .complete ∧
      (pFrameAt 7).rx.rcur.toNat ≤ (pFrameAt 7).rx.rcnt.toNat) ∧
    (pFrame.burst = none ∧ pFrame.rx.state = .complete ∧ pFrame.rx.rcur.toNat ≤ pFrame.rx.rcnt.toNat) := by
  decide

/-- Each read of the frame's last bytes. -/
theorem witness_ReadReturnsLittleEndianField :
    (pFrame.burst = none ∧ pFrame.rx.state = .complete ∧ pFrame.rx.rcnt.toNat ≤ pFrame.cfg.rxCapacity.toNat) ∧
    (pFrameAt 6).rx.rcur.toNat + 1 = (pFrameAt 6).rx.rcnt.toNat ∧
    (pFrameAt 5).rx.rcur.toNat + 2 = (pFrameAt 5).rx.rcnt.toNat ∧
    (pFrameAt 3).rx.rcur.toNat + 4 = (pFrameAt 3).rx.rcnt.toNat := by
  decide

theorem witness_AdvanceMovesCursor :
    qFrame.burst = none ∧ qFrame.rx.state = .complete ∧ qFrame.rx.rcur.toNat + (3 : Byte).toNat = qFrame.rx.rcnt.toNat := by
  decide

theorem witness_ReadPastReceivedFaults :
    qFrame.burst = none ∧ qFrame.rx.state = .complete ∧ qFrame.rx.rcnt.toNat < qFrame.rx.rcur.toNat + 4 ∧
      (pFrameAt 7).rx.rcnt.toNat < (pFrameAt 7).rx.rcur.toNat + 1 := by
  decide

theorem witness_ReadPortFrame : ∃ t, isReadPort .readU16 = true ∧ exec .readU16 pFrame = .next t := ⟨_, rfl, rfl⟩

theorem witness_TxNeedsArmed :
    needsArmed .txSend = true ∧ needsArmed (.txWriteText 0) = true ∧ State.reset.burst = none ∧
      State.reset.tx.tarm = false := by
  decide

theorem witness_TxIgnoresReceiveSide : ∃ t, isTx .txSend = true ∧ exec .txSend (armed 7 [1]) = .next t := ⟨_, rfl, rfl⟩

theorem witness_TxBeginStartsMessage : State.reset.burst = none := rfl

theorem witness_TxSetResultStores :
    (armed 1 []).burst = none ∧ (2#2 = 2#2 ∧ TxResult.unsupported = .unsupported) ∧ (armed 1 []).tx.tarm = true := by
  decide

/-- Writes that just fit. -/
theorem witness_TxWriteAppendsField :
    (withTxCapacity 1 (armed 1 [])).burst = none ∧ (withTxCapacity 1 (armed 1 [])).tx.tarm = true ∧
    (withTxCapacity 1 (armed 1 [])).tx.tlen.toNat + [0x55#8].length = (withTxCapacity 1 (armed 1 [])).cfg.txCapacity.toNat ∧
    (withTxCapacity 4 (armed 1 [])).tx.tlen.toNat + 4 = (withTxCapacity 4 (armed 1 [])).cfg.txCapacity.toNat := by
  decide

/-- Writes one byte too long. -/
theorem witness_TxWriteOverflowStoresNothing :
    (withTxCapacity 3 (armed 1 [])).burst = none ∧ (withTxCapacity 3 (armed 1 [])).tx.tarm = true ∧
    (withTxCapacity 3 (armed 1 [])).cfg.txCapacity.toNat < (withTxCapacity 3 (armed 1 [])).tx.tlen.toNat + 4 ∧
    (withTxCapacity 0 (armed 1 [])).cfg.txCapacity.toNat < (withTxCapacity 0 (armed 1 [])).tx.tlen.toNat + 1 := by
  decide

/-- A burst of 255, an empty one at a full buffer, and a beat that is not the last. -/
theorem witness_BurstOpensAndCollects :
    ((armed 1 []).burst = none ∧ (255 : Byte) ≠ 0) ∧
    ((withTxCapacity 0 (armed 1 [])).tx.tarm = true ∧
      (withTxCapacity 0 (armed 1 [])).tx.tlen.toNat ≤ (withTxCapacity 0 (armed 1 [])).cfg.txCapacity.toNat) ∧
    (∃ b, (inBurst { halfBurst with count := 3 } (armed 1 [])).burst = some b ∧ b.beats.length + 1 < b.count.toNat) := by
  exact ⟨⟨rfl, by decide⟩, ⟨rfl, by decide⟩, _, rfl, by decide⟩

/-- Two bytes: an inner item, not armed, one byte too long, and just fitting. -/
theorem witness_BurstIsOneTransaction :
    [0xAA#8, 0xBB#8].length ≤ 255 ∧ (armed 1 []).burst = none ∧ 2 < (burstOps .bytes [0xAA, 0xBB]).length ∧
    State.reset.tx.tarm = false ∧ (armed 1 []).tx.tarm = true ∧
    (withTxCapacity 1 (armed 1 [])).cfg.txCapacity.toNat < (withTxCapacity 1 (armed 1 [])).tx.tlen.toNat + 2 ∧
    (withTxCapacity 2 (armed 1 [])).tx.tlen.toNat + 2 ≤ (withTxCapacity 2 (armed 1 [])).cfg.txCapacity.toNat := by
  decide

/-- The empty burst, at a full buffer and at one overfull, and the burst of 255 bytes, at a buffer with room and one without. -/
theorem witness_BurstIsOneTransaction_bounds :
    (([] : List Byte).length ≤ 255 ∧
      (withTxCapacity 0 (armed 1 [])).tx.tlen.toNat + 0 ≤ (withTxCapacity 0 (armed 1 [])).cfg.txCapacity.toNat ∧
      (withTxCapacity 0 (armed 1 [5])).cfg.txCapacity.toNat < (withTxCapacity 0 (armed 1 [5])).tx.tlen.toNat + 0) ∧
    ((List.replicate 255 (0x41 : Byte)).length = 255 ∧
      (withTxCapacity 255 (armed 1 [])).tx.tlen.toNat + 255 = (withTxCapacity 255 (armed 1 [])).cfg.txCapacity.toNat ∧
      (withTxCapacity 254 (armed 1 [])).cfg.txCapacity.toNat < (withTxCapacity 254 (armed 1 [])).tx.tlen.toNat + 255) :=
  ⟨by decide, List.length_replicate, by decide, by decide⟩

theorem witness_BadBeatSpoilsBurst :
    (State.reset.burst = none ∧ cmdOp 0xFF000000AA = 0xFF) ∧
    (inBurst halfBurst (armed 1 [])).burst = some halfBurst ∧
    halfBurst.beats.length + [0xFF00000100#40].length = halfBurst.count.toNat ∧ [0xFF00000100#40] ≠ [] ∧
    (∀ w ∈ [0xFF00000100#40], cmdOp w = 0xFF) ∧ ∃ w ∈ [0xFF00000100#40], 2 ^ 8 ≤ (cmdArg w).toNat :=
  ⟨by decide, rfl, rfl, by simp, by simp; decide, 0xFF00000100#40, by simp, by decide⟩

theorem witness_CommandInsideBurstRefused :
    (inBurst halfBurst (armed 1 [])).burst.isSome = true ∧ cmdOp 0x1700000000 ≠ 0xFF ∧ cmdOp 0x0700000000 ≠ 0xFF := by
  decide

/-- A full payload and an empty one. -/
theorem witness_TxSendEmitsFrame :
    ((withTxCapacity 2 (armed 1 [5, 6])).burst = none ∧ (withTxCapacity 2 (armed 1 [5, 6])).tx.tarm = true ∧
      (withTxCapacity 2 (armed 1 [5, 6])).tx.tlen.toNat ≤ (withTxCapacity 2 (armed 1 [5, 6])).cfg.txCapacity.toNat) ∧
    (armed 7 []).tx.tlen.toNat ≤ (armed 7 []).cfg.txCapacity.toNat := by
  decide

theorem witness_TxOutAppendOnly :
    (∃ t, exec .txSend (armed 7 []) = .next t ∧ t.txOut ≠ (armed 7 []).txOut) ∧
    ∃ t, step (withTurns [.environment] State.reset) = .next t :=
  ⟨⟨_, rfl, by decide⟩, _, rfl⟩

theorem witness_TxFrame : ∃ t, isTx (.txWriteU8 1) = true ∧ exec (.txWriteU8 1) (armed 7 []) = .next t ∧
    (∀ op8, Instr.txWriteU8 1 ≠ .txBegin op8) ∧ (∀ r, Instr.txWriteU8 1 ≠ .txSetResult r) ∧ Instr.txWriteU8 1 ≠ .txSend :=
  ⟨_, rfl, rfl, by simp, by simp, by simp⟩

theorem witness_NotFoundAnswered :
    pFrame.burst = none ∧ pFrame.rx.state = .complete ∧ pFrame.rx.dir = .command := by
  decide

theorem witness_FaultWritesOnlyFaultRegister :
    ∃ t, exec .txSend State.reset = .next t ∧ t.faultLog ≠ State.reset.faultLog := ⟨_, rfl, by decide⟩

theorem witness_FaultClearedByAckOrResetOnly :
    (∃ t, ({ State.reset with fault := .illegalOp } : State).fault ≠ .none ∧
      exec .ack { State.reset with fault := .illegalOp } = .next t ∧ t.fault ≠ .illegalOp) ∧
    ∃ t, step (withTurns [.environment] State.reset) = .next t :=
  ⟨⟨_, by decide, rfl, by decide⟩, _, rfl⟩

/-- One word for each clause: a reserved bit, the read port, the framer, and the two bounds. -/
theorem witness_FaultPriority :
    State.reset.burst = none ∧ decode (.cmd 0x1200000155) = .rejected .reservedArgBits ∧
    (decode (.cmd 0x0300000000) = .ok .readU8 ∧ isReadPort .readU8 = true ∧ State.reset.rx.state ≠ .complete ∧
      State.reset.rx.state ≠ .reserved) ∧
    (decode (.cmd 0x1200000055) = .ok (.txWriteU8 0x55) ∧ needsArmed (.txWriteU8 0x55) = true ∧
      State.reset.tx.tarm = false) ∧
    ((inBurst halfBurst State.reset).burst = some halfBurst ∧ cmdOp 0xFF000001BB = 0xFF ∧
      halfBurst.count.toNat ≤ halfBurst.beats.length + 1 ∧ 2 ^ 8 ≤ (cmdArg 0xFF000001BB).toNat ∧
      halfBurst.bad = false ∧ (cmdArg 0xFF000000FF).toNat < 2 ^ 8 ∧ (inBurst halfBurst State.reset).tx.tarm = false) ∧
    (∃ t, runItem (.cmd 0x0500000000) qFrame = .next t ∧ t.faultLog = qFrame.faultLog ++ [.rdOverrun 0 4]) ∧
    (∃ t, runItem (.cmd 0x1200000055) (withTxCapacity 0 (armed 1 [])) = .next t ∧
      t.faultLog = (withTxCapacity 0 (armed 1 [])).faultLog ++ [.wrOverflow 0 1]) := by
  exact ⟨rfl, by decide, by decide, by decide, by decide, ⟨_, rfl, rfl⟩, ⟨_, rfl, rfl⟩⟩

/-- One state for each clause; each READ's last index is the capacity, one too high. -/
theorem witness_UnreachableStops :
    (parserIn .reserved).rx.state = .reserved ∧ (parserIn .reserved).burst = none ∧ isReadPort .remaining = true ∧
    ((withRxCapacity 0 midPayload).rx.state = .payload ∧
      (withRxCapacity 0 midPayload).rx.rcnt.toNat < (withRxCapacity 0 midPayload).rx.elen.toNat ∧
      (withRxCapacity 0 midPayload).cfg.rxCapacity.toNat ≤ (withRxCapacity 0 midPayload).rx.rcnt.toNat) ∧
    ((withRxCapacity 6 pFrame).rx.state = .complete ∧ (withRxCapacity 6 pFrame).burst = none ∧
      ((withRxCapacity 6 (pFrameAt 6)).rx.rcur.toNat + 1 = 7 ∧ (withRxCapacity 6 (pFrameAt 5)).rx.rcur.toNat + 2 = 7 ∧
        (withRxCapacity 6 (pFrameAt 3)).rx.rcur.toNat + 4 = 7) ∧
      7 ≤ (withRxCapacity 6 pFrame).rx.rcnt.toNat ∧ (withRxCapacity 6 pFrame).cfg.rxCapacity.toNat < 7) ∧
    ((withTxCapacity 0 (armed 1 [5])).burst = none ∧ (withTxCapacity 0 (armed 1 [5])).tx.tarm = true ∧
      (withTxCapacity 0 (armed 1 [5])).cfg.txCapacity.toNat < (withTxCapacity 0 (armed 1 [5])).tx.tlen.toNat) := by
  decide

theorem witness_ResetRestoresRegisters :
    pFrame.txPending = 0 ∧ ({ pFrame with txPending := 1 } : State).txPending ≠ 0 := by
  decide

theorem witness_PowerOnValues : ∃ t, exec .reset pFrame = .next t := ⟨_, rfl⟩

theorem witness_StatusViewShowsRegisters : FrameInv pFrame ∧ pFrame.rx.state = .complete := ⟨pFrame_frameInv, rfl⟩

/-- `begun` with a byte of the frame offered. -/
def begunFed : State := begun.withFetchWord 8 0x55

theorem begunFed_machineInv : MachineInv begunFed where
  cursors := ⟨by decide, by decide, by decide, by decide⟩
  writeCursor := by unfold WriteCursorBound; decide
  canonical := ⟨by decide, by decide, by decide, by decide⟩
  written := ⟨by decide, by decide⟩
  burst := fun _ h => by cases h
  logged := fun h => absurd rfl h
  pending := by decide

theorem begunFed_frameInv : FrameInv begunFed where
  act_iff_active := by decide
  header := by decide
  folded := by decide
  unread := by decide
  full := by decide

theorem witness_StepKeepsInvariant : ∃ t, MachineInv begunFed ∧ step begunFed = .next t ∧ t.rx.rcnt = 2 :=
  ⟨_, begunFed_machineInv, rfl, rfl⟩

theorem witness_StepKeepsChecksum :
    ∃ t, MachineInv begunFed ∧ FrameInv begunFed ∧ step begunFed = .next t ∧ t.rx.rcnt = 2 :=
  ⟨_, begunFed_machineInv, begunFed_frameInv, rfl, rfl⟩

theorem witness_InvariantStepNeverStops : MachineInv begunFed := begunFed_machineInv

/-- The empty payload and one at the capacity. -/
theorem witness_WellFormedFrameAccepted :
    State.reset.rx.state = .idle ∧ ([] : List Byte).length = (0 : Byte).toNat ∧
    (withRxCapacity 2 State.reset).rx.state = .idle ∧ [0xAA#8, 0x55#8].length = (2 : Byte).toNat ∧
    (2 : Byte).toNat ≤ (withRxCapacity 2 State.reset).cfg.rxCapacity.toNat := by
  decide

/-- An accepted frame at the receiver's capacity, an `Error` frame, and one a byte too long. -/
theorem witness_RoundTrip :
    ((armed 1 [5, 6]).burst = none ∧ (armed 1 [5, 6]).tx.tarm = true ∧
      (armed 1 [5, 6]).tx.tlen.toNat ≤ (armed 1 [5, 6]).cfg.txCapacity.toNat ∧ State.reset.rx.state = .idle) ∧
    ((armed 1 [5, 6]).tx.tres ≠ .error ∧
      (armed 1 [5, 6]).tx.tlen.toNat ≤ (withRxCapacity 2 State.reset).cfg.rxCapacity.toNat) ∧
    ({ (armed 1 [5, 6]).tx with tres := TxResult.error } : Tx).tres = .error ∧
    (withRxCapacity 1 State.reset).cfg.rxCapacity.toNat < (armed 1 [5, 6]).tx.tlen.toNat := by
  decide

theorem witness_FrameAttemptBounded :
    MachineInv begun ∧ begun.rx.state ≠ .idle ∧ begun.rx.state ≠ .complete ∧
      (List.replicate 69 (0x24 : Byte)).length = begun.cfg.rxCapacity.toNat + 5 :=
  ⟨begun_machineInv, by decide, by decide, List.length_replicate⟩

/-- The top bit of the opcode, and bit 0 of the payload's only byte. -/
theorem witness_BitFlipRejected :
    State.reset.rx.state = .idle ∧ [0xAA#8].length = (1 : Byte).toNat ∧
    (1 : Byte).toNat ≤ State.reset.cfg.rxCapacity.toNat ∧ 7 < 8 ∧ (0x81#8 = 0x01#8 ^^^ BitVec.twoPow 8 7) ∧
    [0xAA#8][0]? = some 0xAA#8 ∧ [0xAB#8] = [0xAA#8].set 0 (0xAA#8 ^^^ BitVec.twoPow 8 0) := by
  decide

/-- `midPayload` with an expected length. -/
def expecting (elen : Byte) : State := { midPayload with rx := { midPayload.rx with elen := elen } }

/-- In each state: room for a payload of 24H bytes and none; a payload to come and an empty one; two bytes left, one, and
none. -/
theorem witness_NoResynchronisationInsideFrame :
    (∃ t, midPayload.rx.state ≠ .idle ∧ feedAll [0x24, 0x4D] midPayload = .next t) ∧
    ((parserIn .sync1).rx.state = .sync1 ∧ (parserIn .sync2).rx.state = .sync2) ∧
    ((withRxCapacity 0x24 (parserIn .direction)).rx.state = .direction ∧
      0x24 ≤ (withRxCapacity 0x24 (parserIn .direction)).cfg.rxCapacity.toNat ∧
      (withRxCapacity 0x23 (parserIn .direction)).cfg.rxCapacity.toNat < 0x24) ∧
    (({ expecting 1 with rx := { (expecting 1).rx with state := .length } } : State).rx.state = .length ∧
      (expecting 1).rx.rcnt.toNat + 1 = (expecting 1).rx.elen.toNat ∧ (expecting 0).rx.rcnt = (expecting 0).rx.elen) ∧
    ((expecting 2).rx.state = .payload ∧ (expecting 2).rx.rcnt.toNat + 2 = (expecting 2).rx.elen.toNat ∧
      (expecting 2).rx.elen.toNat ≤ (expecting 2).cfg.rxCapacity.toNat ∧
      (expecting 1).rx.rcnt.toNat + 1 = (expecting 1).rx.elen.toNat ∧ (expecting 0).rx.rcnt = (expecting 0).rx.elen) := by
  exact ⟨⟨_, by decide, rfl⟩, by decide, by decide, by decide, by decide⟩

theorem witness_StateWrittenByFeedAckResetOnly :
    ∃ t, exec (.feed 0x24) State.reset = .next t ∧ t.rx.state ≠ State.reset.rx.state := ⟨_, rfl, by decide⟩

theorem witness_FeedCommutesWithTx :
    isTx .txSend = true ∧ (∃ t, exec (.feed 0x24) (armed 7 []) = .next t) ∧ ∃ t, exec .txSend (armed 7 []) = .next t :=
  ⟨rfl, ⟨_, rfl⟩, _, rfl⟩

/-- A DATA beat, a FEED, and an edge with nothing to take. -/
theorem witness_ResponseFollowsItem :
    (∃ t, runItem (.cmd 0xFF000000AA) State.reset = .next t) ∧ (∃ t, exec (.feed 0x24) State.reset = .next t) ∧
    ∃ t, step (withTurns [.edge ⟨false, false, false, false⟩] State.reset) = .next t :=
  ⟨⟨_, rfl⟩, ⟨_, rfl⟩, _, rfl⟩

/-- An edge that takes a command and a byte. -/
def busyEdge : State :=
  { parserIn .sync2 with
    env := { rxIn := [0x24], cmdIn := [0x0100000000], turns := [.edge ⟨false, true, true, false⟩] } }

theorem witness_EdgeRefinesTurns :
    ∃ t, busyEdge.env.turns = .edge ⟨false, true, true, false⟩ :: [] ∧ step busyEdge = .next t := ⟨_, rfl, rfl⟩

/-- Two bytes of a frame still to leave, and an edge whose pins are `p`. -/
def sending (p : Pins) : State :=
  { State.reset with
    txOut := [0x24, 0x4D, 0x3E, 0x00, 0x07, 0x07], txPending := 2, env := { State.reset.env with turns := [.edge p] } }

/-- R87: the fifth byte of R181's empty `'>'` frame of opcode 7 leaves at an edge with `tx_ready`, and stays offered at one
without. -/
theorem test_edge_hands_over_byte :
    (portOutputs (sending ⟨false, false, false, true⟩)).txData = some 0x07 ∧
    after (step (sending ⟨false, false, false, true⟩)) (fun t => (wireOut t, t.txPending, (portOutputs t).txValid)) =
      some ([0x24, 0x4D, 0x3E, 0x00, 0x07], 1, true) ∧
    after (step (sending ⟨false, false, false, false⟩)) (fun t => (wireOut t, t.txPending)) =
      some ([0x24, 0x4D, 0x3E, 0x00], 2) := by
  decide

/-- A send in progress, all of `TX_OUT` still to leave, and an edge with nothing pending. -/
theorem witness_SendHoldsCommandPort :
    (∃ t, (sending ⟨false, true, true, true⟩).env.turns = .edge ⟨false, true, true, true⟩ :: [] ∧
      (sending ⟨false, true, true, true⟩).txPending ≠ 0 ∧
      (sending ⟨false, true, true, true⟩).txPending ≤ (sending ⟨false, true, true, true⟩).txOut.length ∧
      step (sending ⟨false, true, true, true⟩) = .next t) ∧
    (∃ t, ({ busyEdge with txPending := 1, txOut := [7] } : State).txPending =
        ({ busyEdge with txPending := 1, txOut := [7] } : State).txOut.length ∧
      step { busyEdge with txPending := 1, txOut := [7] } = .next t) ∧
    ∃ t, busyEdge.txPending = 0 ∧ step busyEdge = .next t :=
  ⟨⟨_, rfl, by decide, by decide, rfl⟩, ⟨_, rfl, rfl⟩, _, rfl, rfl⟩

end Sys2Proof.Tests
end

