-- ==== Sys2Proof/Proofs/Encoding.lean ====
section
/-! PROOFS. The command port's illegal words and the bursts (30_encoding.md R84, R85, R88, R89, R91). -/

namespace Sys2Proof

/-! ## The decoder -/

/-- An operand is accepted where the other arg bits are zero. -/
theorem operand_accepted {k : Nat} {w : CmdWord} {build : BitVec k → Instr} (h : (cmdArg w).toNat < 2 ^ k) :
    operand k w build = .ok (build ((cmdArg w).setWidth k)) := if_pos h

/-- An operand is rejected where they are not (R84). -/
theorem operand_rejected {k : Nat} {w : CmdWord} {build : BitVec k → Instr} (h : 2 ^ k ≤ (cmdArg w).toNat) :
    operand k w build = .rejected .reservedArgBits := if_neg (Nat.not_lt.mpr h)

theorem decodeCmd_of_noOperand {w : CmdWord} (hop : cmdOp w ∈ [0x01#8, 0x02#8, 0x03#8, 0x04#8, 0x05#8, 0x17#8])
    (harg : cmdArg w ≠ 0) : decodeCmd w = .rejected .reservedArgBits := by
  have h : 2 ^ 0 ≤ (cmdArg w).toNat := Nat.pos_of_ne_zero fun h0 => harg (BitVec.eq_of_toNat_eq h0)
  simp only [List.mem_cons, List.not_mem_nil, or_false] at hop
  rcases hop with hop | hop | hop | hop | hop | hop <;> simp [decodeCmd, hop, operand_rejected h]

theorem decodeCmd_of_byteOperand {w : CmdWord} (hop : cmdOp w ∈ [0x06#8, 0x10#8, 0x12#8, 0x15#8, 0x16#8])
    (harg : 2 ^ 8 ≤ (cmdArg w).toNat) : decodeCmd w = .rejected .reservedArgBits := by
  simp only [List.mem_cons, List.not_mem_nil, or_false] at hop
  rcases hop with hop | hop | hop | hop | hop <;> simp [decodeCmd, hop, operand_rejected harg]

theorem decodeCmd_of_resultOperand {w : CmdWord} (hop : cmdOp w = 0x11) (harg : 2 ^ 2 ≤ (cmdArg w).toNat) :
    decodeCmd w = .rejected .reservedArgBits := by
  have hr : resultOperand w = .rejected .reservedArgBits := if_neg (Nat.not_lt.mpr harg)
  simp [decodeCmd, hop, hr]

theorem decodeCmd_of_halfOperand {w : CmdWord} (hop : cmdOp w = 0x13) (harg : 2 ^ 16 ≤ (cmdArg w).toNat) :
    decodeCmd w = .rejected .reservedArgBits := by
  simp [decodeCmd, hop, operand_rejected harg]

theorem decodeCmd_of_undefinedOp {w : CmdWord}
    (hop : cmdOp w = 0x00 ∨ (0x07 ≤ (cmdOp w).toNat ∧ (cmdOp w).toNat ≤ 0x0F) ∨
      (0x18 ≤ (cmdOp w).toNat ∧ (cmdOp w).toNat ≤ 0xFE)) :
    decodeCmd w = .rejected (.undefinedOp (cmdOp w)) := by
  have hn : (cmdOp w).toNat = 0 ∨ (0x07 ≤ (cmdOp w).toNat ∧ (cmdOp w).toNat ≤ 0x0F) ∨
      (0x18 ≤ (cmdOp w).toNat ∧ (cmdOp w).toNat ≤ 0xFE) := hop.imp_left (congrArg BitVec.toNat)
  unfold decodeCmd
  split
  case h_16 => rfl
  all_goals omega

theorem decodeCmd_of_beat {w : CmdWord} (hop : cmdOp w = 0xFF) : decodeCmd w = operand 8 w .data := by
  simp [decodeCmd, hop]

/-- Only the `op` 0xFF decodes to a DATA beat (R82). -/
theorem cmdOp_of_decodeCmd_data {w : CmdWord} {d : Byte} (h : decodeCmd w = .ok (.data d)) : cmdOp w = 0xFF := by
  unfold decodeCmd at h
  split at h
  case h_8 =>
    unfold resultOperand at h
    split at h
    · split at h <;> cases h
    · cases h
  case h_11 => cases h
  case h_15 => exact BitVec.eq_of_toNat_eq ‹_›
  case h_16 => cases h
  all_goals
    obtain ⟨v, hv, -⟩ := operand_ok (by decide) h
    cases hv

/-- A legal beat is the encoding of its byte. -/
theorem cmdWord_of_beat {w : CmdWord} (hop : cmdOp w = 0xFF) (harg : (cmdArg w).toNat < 2 ^ 8) :
    cmdWord 0xFF (((cmdArg w).setWidth 8).setWidth 32) = w := by
  have hback : ((cmdArg w).setWidth 8).setWidth 32 = cmdArg w :=
    BitVec.eq_of_toNat_eq (by simp only [BitVec.toNat_setWidth]; omega)
  rw [hback, ← hop, cmdWord_fields]

end Sys2Proof

namespace Sys2Proof.Machine

/-! ## Items of the command port -/

theorem runItem_of_decoded {w : CmdWord} {i : Instr} (s : State) (h : decodeCmd w = .ok i) :
    runItem (.cmd w) s = exec i s := by
  simp [runItem, decode, h]

theorem runItem_of_rejected {w : CmdWord} {e : DecodeError} (s : State) (h : decodeCmd w = .rejected e) :
    runItem (.cmd w) s = rejectWord w s := by
  simp [runItem, decode, h]

/-- With no burst open, an illegal word faults with its own word and does nothing else. -/
theorem rejectWord_outsideBurst {s : State} (w : CmdWord) (hb : s.burst = none) :
    ∃ t, rejectWord w s = .next t ∧ Faulted (.illegalOp w) s t ∧ t.burst = none := by
  rw [rejectWord, hb]
  by_cases hop : cmdOp w = 0xFF
  · exact ⟨_, if_pos hop, asBeat_raise_faulted _ s, hb⟩
  · exact ⟨_, if_neg hop, raise_faulted _ s, hb⟩

/-- With no burst open, a beat, legal or not, faults with its own word and does nothing else. -/
theorem runItem_strayBeat {w : CmdWord} {s : State} (hb : s.burst = none) (hop : cmdOp w = 0xFF) :
    ∃ t, runItem (.cmd w) s = .next t ∧ Faulted (.illegalOp w) s t ∧ t.burst = none := by
  by_cases harg : (cmdArg w).toNat < 2 ^ 8
  · rw [runItem_of_decoded s ((decodeCmd_of_beat hop).trans (operand_accepted harg))]
    refine ⟨asBeat (raise (.illegalOp w) s), ?_, asBeat_raise_faulted _ s, hb⟩
    rw [exec, execData, hb, cmdWord_of_beat hop harg]
  · rw [runItem_of_rejected s ((decodeCmd_of_beat hop).trans (operand_rejected (Nat.not_lt.mp harg)))]
    exact rejectWord_outsideBurst w hb

/-- With a burst open, a beat, legal or not, joins it; its other arg bits make it a bad one (R89). -/
theorem runItem_beat {w : CmdWord} {b : Burst} {s : State} (hb : s.burst = some b) (hop : cmdOp w = 0xFF) :
    runItem (.cmd w) s = takeBeat ((cmdArg w).setWidth 8) (decide (2 ^ 8 ≤ (cmdArg w).toNat)) b s := by
  by_cases harg : 2 ^ 8 ≤ (cmdArg w).toNat
  · rw [runItem_of_rejected s ((decodeCmd_of_beat hop).trans (operand_rejected harg)), decide_eq_true harg]
    simp [rejectWord, hb, hop]
  · rw [runItem_of_decoded s ((decodeCmd_of_beat hop).trans (operand_accepted (Nat.not_le.mp harg))),
      decide_eq_false harg]
    simp [exec, execData, hb]

/-- With a burst open, every operation of the command port but a beat is refused. -/
theorem exec_insideBurst {i : Instr} {s : State} (hb : s.burst.isSome = true) (hreset : i ≠ .reset)
    (hfeed : ∀ b, i ≠ .feed b) (hdata : ∀ d, i ≠ .data d) : exec i s = .refused .burstInterrupted := by
  cases i with
  | feed b => exact absurd rfl (hfeed b)
  | reset => exact absurd rfl hreset
  | data d => exact absurd rfl (hdata d)
  | _ => exact outsideBurst_of_some hb

/-- With a burst open, an illegal word that is no beat is refused too (assumption 16). -/
theorem rejectWord_insideBurst {w : CmdWord} {s : State} (hb : s.burst.isSome = true) (hop : cmdOp w ≠ 0xFF) :
    rejectWord w s = .refused .burstInterrupted := by
  obtain ⟨b, hb⟩ := Option.isSome_iff_exists.mp hb
  rw [rejectWord, hb]
  exact if_neg hop

/-! ## Beats -/

@[simp] theorem push_kind (d : Byte) (bad : Bool) (b : Burst) : (b.push d bad).kind = b.kind := rfl
@[simp] theorem push_count (d : Byte) (bad : Bool) (b : Burst) : (b.push d bad).count = b.count := rfl
@[simp] theorem push_beats (d : Byte) (bad : Bool) (b : Burst) : (b.push d bad).beats = b.beats ++ [d] := rfl
@[simp] theorem push_bad (d : Byte) (bad : Bool) (b : Burst) : (b.push d bad).bad = (b.bad || bad) := rfl

/-- A beat before the last joins the burst. -/
theorem takeBeat_inner {b : Burst} (d : Byte) (bad : Bool) (s : State) (h : b.beats.length + 1 < b.count.toNat) :
    takeBeat d bad b s = .next (clearResponse { s with burst := some (b.push d bad) }) :=
  if_pos (by simpa using h)

/-- The last beat closes the burst and runs its operation. -/
theorem takeBeat_last {b : Burst} (d : Byte) (bad : Bool) (s : State) (h : b.beats.length + 1 = b.count.toNat) :
    takeBeat d bad b s = asBeatResult (commitBurst (b.push d bad) { s with burst := none }) :=
  if_neg (by simp [h])

/-- A fault told of a state that differs only in its open burst and response is told of the state itself. -/
theorem Faulted.of_burst_rsp {e : FaultEntry} {s t : State} {b : Option Burst} {r : Response}
    (h : Faulted e { s with burst := b, rsp := r } t) : Faulted e s t :=
  ⟨h.register, h.log, h.rspFault, h.rspData,
    ⟨h.frame.cfg, h.frame.rx, h.frame.tx, h.frame.txOut, h.frame.txPending, h.frame.epoch, h.frame.env⟩⟩

/-- The last beat of a spoilt burst faults with the header's word and closes the burst (R89; assumption 4). -/
theorem takeBeat_lastSpoilt {d : Byte} {bad : Bool} {b : Burst} (s : State)
    (hlast : b.beats.length + 1 = b.count.toNat) (hbad : (b.bad || bad) = true) :
    ∃ t, takeBeat d bad b s = .next t ∧ Faulted (.illegalOp (burstHeader b.kind b.count)) s t ∧ t.burst = none := by
  refine ⟨_, ?_, (asBeat_raise_faulted _ { s with burst := none }).of_burst_rsp (b := none) (r := s.rsp), rfl⟩
  rw [takeBeat_last d bad s hlast, commitBurst, push_bad, if_pos hbad]
  rfl

/-- The beats still to come of a spoilt burst, by induction on them: each but the last joins the burst, so only the last
faults. -/
theorem issueAll_spoiltBurst (ws : List CmdWord) {b : Burst} {s : State} (hb : s.burst = some b)
    (hlen : b.beats.length + ws.length = b.count.toNat) (hne : ws ≠ []) (hops : ∀ w ∈ ws, cmdOp w = 0xFF)
    (hbad : b.bad = true ∨ ∃ w ∈ ws, 2 ^ 8 ≤ (cmdArg w).toNat) :
    ∃ t, issueAll ws s = .next t ∧ Faulted (.illegalOp (burstHeader b.kind b.count)) s t ∧ t.burst = none := by
  induction ws generalizing b s with
  | nil => exact absurd rfl hne
  | cons w ws ih =>
    obtain ⟨hop, hops⟩ := List.forall_mem_cons.mp hops
    have hbad : (b.push ((cmdArg w).setWidth 8) (decide (2 ^ 8 ≤ (cmdArg w).toNat))).bad = true ∨
        ∃ w ∈ ws, 2 ^ 8 ≤ (cmdArg w).toNat := by
      simpa [List.exists_mem_cons, or_assoc] using hbad
    rw [issueAll, runItem_beat hb hop]
    rcases eq_or_ne ws [] with rfl | hws
    · obtain ⟨t, ht, hf, hn⟩ := takeBeat_lastSpoilt s hlen (hbad.resolve_right (by simp))
      exact ⟨t, by rw [ht]; rfl, hf, hn⟩
    · have hpos := List.length_pos_iff.mpr hws
      rw [List.length_cons] at hlen
      rw [takeBeat_inner _ _ s (by omega)]
      obtain ⟨t, ht, hf, hn⟩ := ih (s := clearResponse { s with burst := some _ }) rfl (by simp; omega) hws hops hbad
      exact ⟨t, ht, Faulted.of_burst_rsp hf, hn⟩

/-! ## Bursts as one TX write -/

/-- A TX write reads no response. -/
theorem writeField_rsp (ds : List Byte) (r : Response) (s : State) :
    writeField ds { s with rsp := r } = writeField ds s := rfl

/-- A TX write that is not armed. -/
theorem writeField_notArmed {ds : List Byte} {s : State} (ha : s.tx.tarm = false) :
    writeField ds s = .next (raise .txNotArmed s) := by
  simp [writeField, txGuard, ha]

/-- A TX write that is armed and does not fit. -/
theorem writeField_overflow {ds : List Byte} {s : State} (ha : s.tx.tarm = true)
    (hn : s.cfg.txCapacity.toNat < s.tx.tlen.toNat + ds.length) :
    writeField ds s = .next (raise (.wrOverflow s.tx.tlen ds.length) s) := by
  simp [writeField, txGuard, writeBound, ha, hn]

/-- Beats before the last only gather in the burst. -/
theorem execAll_innerBeats (ds : List Byte) {b : Burst} {s : State} (hb : s.burst = some b)
    (hlen : b.beats.length + ds.length < b.count.toNat) :
    ∃ r, execAll (ds.map .data) s = .next { s with burst := some { b with beats := b.beats ++ ds }, rsp := r } := by
  induction ds generalizing b s with
  | nil => exact ⟨s.rsp, by simp [execAll, ← hb]⟩
  | cons d ds ih =>
    rw [List.length_cons] at hlen
    have hd : exec (.data d) s = .next (clearResponse { s with burst := some (b.push d false) }) := by
      simp only [exec, execData, hb]
      exact takeBeat_inner d false s (by omega)
    obtain ⟨r, hr⟩ := ih (s := clearResponse { s with burst := some (b.push d false) }) rfl (by simp; omega)
    refine ⟨r, ?_⟩
    simp only [List.map_cons, execAll, hd, hr]
    simp [clearResponse, Burst.push]

@[simp] theorem execAll_singleton (i : Instr) (s : State) : execAll [i] s = exec i s := by
  rw [execAll]
  cases exec i s <;> rfl

/-- All the beats of an open burst are one TX write of its bytes. -/
theorem execAll_beats {ds : List Byte} {b : Burst} {s : State} (hb : s.burst = some b) (hbad : b.bad = false)
    (hne : ds ≠ []) (hlen : b.beats.length + ds.length = b.count.toNat) :
    execAll (ds.map .data) s = asBeatResult (writeField (b.beats ++ ds) { s with burst := none }) := by
  obtain ⟨xs, d, rfl⟩ := (List.eq_nil_or_concat' ds).resolve_left hne
  rw [List.length_append, List.length_singleton] at hlen
  obtain ⟨r, hr⟩ := execAll_innerBeats xs hb (by omega)
  have hd : exec (.data d) { s with burst := some { b with beats := b.beats ++ xs }, rsp := r } =
      asBeatResult (commitBurst ({ b with beats := b.beats ++ xs }.push d false) { s with burst := none, rsp := r }) :=
    takeBeat_last d false _ (by simp; omega)
  rw [List.map_append, execAll_append hr, List.map_singleton, execAll_singleton, hd, commitBurst, push_bad, hbad,
    push_beats, List.append_assoc]
  rfl

/-- A burst is the header that opens it and one beat a byte. -/
theorem burstOps_eq (k : BurstKind) (ds : List Byte) :
    ∃ i, burstOps k ds = i :: ds.map .data ∧ ∀ s, exec i s = openBurst k (BitVec.ofNat 8 ds.length) s := by
  cases k <;> exact ⟨_, rfl, fun _ => rfl⟩

/-- A header with no beat to follow is the TX write of no bytes. -/
theorem openBurst_empty (k : BurstKind) {s : State} (hb : s.burst = none) : openBurst k 0 s = writeField [] s := by
  rw [openBurst, outsideBurst_of_none hb, if_pos rfl]

/-- A burst as its header leaves it, no beat taken (R88). -/
def emptyBurst (k : BurstKind) (n : Byte) : Burst := { kind := k, count := n, beats := [], bad := false }

/-- A header with beats to follow opens the burst. -/
theorem openBurst_opens (k : BurstKind) {n : Byte} {s : State} (hb : s.burst = none) (hn : n ≠ 0) :
    openBurst k n s = .next (respond 0 { s with burst := some (emptyBurst k n) }) := by
  rw [openBurst, outsideBurst_of_none hb, if_neg hn, emptyBurst]

/-- The count of a burst of 1 to 255 bytes is no zero and does not wrap. -/
theorem burstCount_exact {n : Nat} (h0 : 0 < n) (h : n ≤ 255) : (BitVec.ofNat 8 n).toNat = n ∧ BitVec.ofNat 8 n ≠ 0 := by
  have hn : (BitVec.ofNat 8 n).toNat = n := by simp only [BitVec.toNat_ofNat]; omega
  exact ⟨hn, fun hz => by rw [hz] at hn; simp at hn; omega⟩

/-- A whole burst is one TX write of its bytes, but that a last beat gives no `rsp_valid` (assumption 9). -/
theorem execAll_burstOps (k : BurstKind) {ds : List Byte} {s u : State} (hlen : ds.length ≤ 255)
    (hb : s.burst = none) (hw : writeField ds s = .next u) :
    ∃ t, execAll (burstOps k ds) s = .next t ∧ (t = u ∨ t = asBeat u) := by
  obtain ⟨i, hops, hi⟩ := burstOps_eq k ds
  rcases eq_or_ne ds [] with rfl | hne
  · refine ⟨u, ?_, .inl rfl⟩
    rw [hops, List.map_nil, execAll_singleton, hi, List.length_nil]
    exact (openBurst_empty k hb).trans hw
  · obtain ⟨hcount, hn⟩ := burstCount_exact (List.length_pos_iff.mpr hne) hlen
    refine ⟨asBeat u, ?_, .inr rfl⟩
    have hclosed : ({ s with burst := none } : State) = s := by rw [← hb]
    rw [hops, execAll, hi, openBurst_opens k hb hn]
    calc execAll (ds.map .data) (respond 0 { s with burst := some (emptyBurst k (BitVec.ofNat 8 ds.length)) })
      _ = asBeatResult (writeField ds (respond 0 { s with burst := none })) :=
        execAll_beats (b := emptyBurst k _) rfl rfl hne ((Nat.zero_add _).trans hcount.symm)
      _ = asBeatResult (writeField ds s) := by rw [hclosed, respond, writeField_rsp]
      _ = .next (asBeat u) := by rw [hw, asBeatResult]

/-- A burst not yet at its last item is open, and has touched nothing but that and the response. -/
theorem execAll_burstOps_take (k : BurstKind) {ds : List Byte} {s : State} (hlen : ds.length ≤ 255)
    (hb : s.burst = none) {m : Nat} (h0 : 0 < m) (hm : m < (burstOps k ds).length) :
    ∃ b r, execAll ((burstOps k ds).take m) s = .next { s with burst := some b, rsp := r } := by
  obtain ⟨i, hops, hi⟩ := burstOps_eq k ds
  obtain ⟨m, rfl⟩ := Nat.exists_eq_succ_of_ne_zero h0.ne'
  rw [hops, List.length_cons, List.length_map, Nat.succ_lt_succ_iff] at hm
  obtain ⟨hcount, hn⟩ := burstCount_exact (Nat.zero_lt_of_lt hm) hlen
  obtain ⟨r, hr⟩ := execAll_innerBeats (ds.take m)
    (s := respond 0 { s with burst := some (emptyBurst k (BitVec.ofNat 8 ds.length)) }) rfl
    (by simp [emptyBurst]; omega)
  refine ⟨{ emptyBurst k (BitVec.ofNat 8 ds.length) with beats := ds.take m }, r, ?_⟩
  rw [hops, List.take_succ_cons, execAll, hi, openBurst_opens k hb hn, ← List.map_take]
  exact hr

/-! ## The obligations -/

/-- Settles O6: a beat is a stray one, and the decoder rejects every other word listed. -/
theorem illegalItemRaisesIllegalOp : Obligations.IllegalItemRaisesIllegalOp := by
  unfold Obligations.IllegalItemRaisesIllegalOp
  intro w s hb hill
  have hrejected : ∀ e, decodeCmd w = .rejected e →
      ∃ t, runItem (.cmd w) s = .next t ∧ Faulted (.illegalOp w) s t ∧ t.burst = none := fun e he => by
    rw [runItem_of_rejected s he]
    exact rejectWord_outsideBurst w hb
  rcases hill with ⟨hop, harg⟩ | ⟨hop, harg⟩ | ⟨hop, harg⟩ | ⟨hop, harg⟩ | hop | hop | hop | rfl | hop
  · exact hrejected _ (decodeCmd_of_noOperand hop harg)
  · exact hrejected _ (decodeCmd_of_byteOperand hop harg)
  · exact hrejected _ (decodeCmd_of_resultOperand hop harg)
  · exact hrejected _ (decodeCmd_of_halfOperand hop harg)
  · exact hrejected _ (decodeCmd_of_undefinedOp (.inl hop))
  · exact hrejected _ (decodeCmd_of_undefinedOp (.inr (.inl hop)))
  · exact hrejected _ (decodeCmd_of_undefinedOp (.inr (.inr hop)))
  · exact hrejected .reservedResult (by decide)
  · exact runItem_strayBeat hb hop

/-- Settles O33: the items before the last only gather, and the whole burst is one TX write. -/
theorem burstIsOneTransaction : Obligations.BurstIsOneTransaction := by
  unfold Obligations.BurstIsOneTransaction
  intro k ds s hlen hb
  refine ⟨fun m h0 hm => ?_, fun ha => ?_, fun ha hn => ?_, fun ha hn => ?_⟩
  · obtain ⟨b, r, h⟩ := execAll_burstOps_take k hlen hb h0 hm
    exact ⟨_, h, rfl, rfl⟩
  · obtain ⟨t, ht, rfl | rfl⟩ := execAll_burstOps k hlen hb (writeField_notArmed ha)
    · exact ⟨_, ht, raise_faulted _ s, hb⟩
    · exact ⟨_, ht, asBeat_raise_faulted _ s, hb⟩
  · obtain ⟨t, ht, rfl | rfl⟩ := execAll_burstOps k hlen hb (writeField_overflow ha hn)
    · exact ⟨_, ht, raise_faulted _ s, hb⟩
    · exact ⟨_, ht, asBeat_raise_faulted _ s, hb⟩
  · obtain ⟨t, ht, h⟩ := execAll_burstOps k hlen hb (writeField_ok ha hn)
    obtain ⟨r, rfl⟩ : ∃ r, t = { s with tx := (appendBytes ds s).tx, rsp := r } := by
      rcases h with rfl | rfl <;> exact ⟨_, rfl⟩
    have hbyte : ∀ j, txByte { s with tx := (appendBytes ds s).tx, rsp := r } j = txByte (appendBytes ds s) j :=
      txByte_congr rfl rfl
    refine ⟨_, ht, rfl, appendBytes_tlen hn, fun j hj => ?_, fun j hj => ?_⟩
    · rw [hbyte, txByte_appendBytes, if_pos (by omega), Nat.add_sub_cancel_left,
        List.getElem?_eq_getElem hj, Option.getD_some]
    · rw [hbyte, txByte_appendBytes, if_neg (by omega)]

/-- Settles O34, by induction on the beats still to come (`issueAll_spoiltBurst`). -/
theorem badBeatSpoilsBurst : Obligations.BadBeatSpoilsBurst := by
  unfold Obligations.BadBeatSpoilsBurst
  refine ⟨fun w s hb hop => runItem_strayBeat hb hop, fun b ws s hb hlen hne hops hbad => ?_⟩
  obtain ⟨t, ht, hf, hn⟩ := issueAll_spoiltBurst ws hb hlen hne hops hbad
  exact ⟨t, _, ht, hf, rfl, hn⟩

/-- Settles O35: the item decodes to no beat, so the burst guard refuses it, or to nothing, so the word is refused. -/
theorem commandInsideBurstRefused : Obligations.CommandInsideBurstRefused := by
  unfold Obligations.CommandInsideBurstRefused
  intro w s hb hop
  cases hd : decodeCmd w with
  | ok i =>
    obtain ⟨hreset, hfeed⟩ := decodeCmd_port hd
    have hdata : ∀ d, i ≠ .data d := fun d hi => hop (cmdOp_of_decodeCmd_data (hi ▸ hd))
    rw [runItem_of_decoded s hd, exec_insideBurst hb hreset hfeed hdata]
  | rejected e => rw [runItem_of_rejected s hd, rejectWord_insideBurst hb hop]

end Sys2Proof.Machine
end

