-- ==== Sys2Proof/Proofs/RxFrameParser.lean ====
section
/-! PROOFS. FEED in each state of the parser (40_rx_frame_parser.md R100 to R112). -/

namespace Sys2Proof.Machine

/-! ## FEED by the state of the parser -/

section
variable {s : State} (b : Byte)

theorem exec_feed_of_idle (h : s.rx.state = .idle) : exec (.feed b) s = .next { s with rx := feedIdle b s.rx } := by
  rw [exec, execFeed, h]

theorem exec_feed_of_sync1 (h : s.rx.state = .sync1) : exec (.feed b) s = .next { s with rx := feedSync1 b s.rx } := by
  rw [exec, execFeed, h]

theorem exec_feed_of_sync2 (h : s.rx.state = .sync2) : exec (.feed b) s = .next { s with rx := feedSync2 b s.rx } := by
  rw [exec, execFeed, h]

theorem exec_feed_of_direction (h : s.rx.state = .direction) :
    exec (.feed b) s = .next { s with rx := feedDirection s.cfg.rxCapacity b s.rx } := by
  rw [exec, execFeed, h]

theorem exec_feed_of_length (h : s.rx.state = .length) :
    exec (.feed b) s = .next { s with rx := feedLength b s.rx } := by
  rw [exec, execFeed, h]

/-- A payload byte that lies inside `RXBUF`. -/
theorem exec_feed_of_payload (h : s.rx.state = .payload) (hlt : s.rx.rcnt.toNat < s.rx.elen.toNat)
    (hcap : s.rx.rcnt.toNat < s.cfg.rxCapacity.toNat) :
    exec (.feed b) s = .next { s with rx := feedPayloadByte b s.rx } := by
  rw [exec, execFeed, h]
  exact (if_pos hlt).trans (if_pos hcap)

/-- With the payload full, the next byte is the checksum byte. -/
theorem exec_feed_of_payload_full (h : s.rx.state = .payload) (hfull : s.rx.elen.toNat ≤ s.rx.rcnt.toNat) :
    exec (.feed b) s = .next { s with rx := feedChecksum b s.rx } := by
  rw [exec, execFeed, h]
  exact if_neg (Nat.not_lt.mpr hfull)

end

/-! ## What each byte does to the parser's registers -/

section
variable {b : Byte} (r : Rx)

theorem feedIdle_sync (h : b = 0x24) : feedIdle b r = parserTo .sync1 r := if_pos h
theorem feedIdle_other (h : b ≠ 0x24) : feedIdle b r = parserTo .idle r := if_neg h

theorem feedSync1_sync (h : b = 0x4D) : feedSync1 b r = parserTo .sync2 r := if_pos h
theorem feedSync1_other (h : b ≠ 0x4D) : feedSync1 b r = parserTo .idle r := if_neg h

theorem feedSync2_command (h : b = 0x3C) : feedSync2 b r = parserTo .direction { r with dir := .command } := if_pos h

theorem feedSync2_reply (h : b = 0x3E) : feedSync2 b r = parserTo .direction { r with dir := .reply } := by
  subst h
  rfl

theorem feedSync2_other (hc : b ≠ 0x3C) (hr : b ≠ 0x3E) : feedSync2 b r = parserTo .idle r :=
  (if_neg hc).trans (if_neg hr)

theorem feedDirection_fits {cap : Byte} (h : b.toNat ≤ cap.toNat) :
    feedDirection cap b r = parserTo .length { r with elen := b, rcnt := 0, rcur := 0, csum := b } := if_pos h

theorem feedDirection_oversized {cap : Byte} (h : cap.toNat < b.toNat) : feedDirection cap b r = parserTo .idle r :=
  if_neg (Nat.not_le.mpr h)

theorem feedChecksum_match (h : b = r.csum) : feedChecksum b r = parserTo .complete r := if_pos h
theorem feedChecksum_mismatch (h : b ≠ r.csum) : feedChecksum b r = parserTo .idle r := if_neg h

end

/-! ## The payload byte -/

/-- The count's next value is the 8-bit sum, which R108's pseudocode writes. -/
theorem feedPayloadByte_rcnt (b : Byte) (r : Rx) : (feedPayloadByte b r).rcnt = r.rcnt + 1 := by
  simp [feedPayloadByte, BitVec.ofNat_add]

/-- The parser stays in `PAYLOAD`; the byte is stored, folded and counted (R108). -/
theorem feedPayloadByte_of_payload (b : Byte) {r : Rx} (h : r.state = .payload) :
    feedPayloadByte b r =
      { r with rxbuf := r.rxbuf.write r.rcnt.toNat b, csum := r.csum ^^^ b, rcnt := r.rcnt + 1, act := true } := by
  rw [← feedPayloadByte_rcnt b r, h]
  rfl

/-- The byte counted reads as given, and every other byte of `RXBUF` as before. -/
theorem rxByte_feedPayloadByte (b : Byte) (s : State) (j : Nat) :
    rxByte { s with rx := feedPayloadByte b s.rx } j = if j = s.rx.rcnt.toNat then b else rxByte s j := by
  simp only [rxByte, feedPayloadByte, parserTo_rxbuf, read?_write]
  split <;> rfl

/-- A count below `ELEN` counts up without wrap. -/
theorem rcnt_succ_exact {r e : Byte} (h : r.toNat < e.toNat) : (r + 1).toNat = r.toNat + 1 := by
  bv_omega

/-! ## `ACT` -/

theorem actOf_eq_true_iff (p : Phase) : actOf p = true ↔ p ≠ .idle := bne_iff_ne

theorem feedIdle_act (b : Byte) (r : Rx) : (feedIdle b r).act = actOf (feedIdle b r).state := by
  rw [feedIdle]
  split <;> rfl

theorem feedSync1_act (b : Byte) (r : Rx) : (feedSync1 b r).act = actOf (feedSync1 b r).state := by
  rw [feedSync1]
  split <;> rfl

theorem feedSync2_act (b : Byte) (r : Rx) : (feedSync2 b r).act = actOf (feedSync2 b r).state := by
  rw [feedSync2]
  split
  · rfl
  · split <;> rfl

theorem feedDirection_act (cap b : Byte) (r : Rx) :
    (feedDirection cap b r).act = actOf (feedDirection cap b r).state := by
  rw [feedDirection]
  split <;> rfl

theorem feedChecksum_act (b : Byte) (r : Rx) : (feedChecksum b r).act = actOf (feedChecksum b r).state := by
  rw [feedChecksum]
  split <;> rfl

/-- A FEED that does not stall ends in a move of the parser, so `ACT` follows `STATE` (R112). -/
theorem execFeed_act {b : Byte} {s t : State} (hs : s.rx.state ≠ .complete) (h : execFeed b s = .next t) :
    t.rx.act = actOf t.rx.state := by
  rcases execFeed_next h with ⟨-, rfl⟩ | ⟨-, rfl⟩ | ⟨-, rfl⟩ | ⟨-, rfl⟩ | ⟨-, rfl⟩ | ⟨-, -, -, rfl⟩ | ⟨-, -, rfl⟩ |
    ⟨hc, -⟩
  · exact feedIdle_act b s.rx
  · exact feedSync1_act b s.rx
  · exact feedSync2_act b s.rx
  · exact feedDirection_act s.cfg.rxCapacity b s.rx
  · rfl
  · rfl
  · exact feedChecksum_act b s.rx
  · exact absurd hc hs

end Sys2Proof.Machine

namespace Sys2Proof.Machine.RxFrameParser

/-! ## The obligations, in a namespace apart: the model has a `feedPayloadByte` of its own -/

/-- Settles O11: the count lies inside `RXBUF`, being below `ELEN`, so the byte is stored and no other byte moves. -/
theorem feedPayloadByte : Obligations.FeedPayloadByte := by
  unfold Obligations.FeedPayloadByte
  intro b s hp hlt hcap
  refine ⟨_, exec_feed_of_payload b hp hlt (hlt.trans_le hcap), ?_, ?_, ?_, fun j hj => ?_⟩
  · exact congrArg (fun r => { s with rx := r }) (feedPayloadByte_of_payload b hp)
  · rw [feedPayloadByte_rcnt, rcnt_succ_exact hlt]
  · rw [rxByte_feedPayloadByte, if_pos rfl]
  · rw [rxByte_feedPayloadByte, if_neg hj]

/-- Settles O14: `ACT` follows the state the parser moved to. -/
theorem feedSetsAct : Obligations.FeedSetsAct := by
  unfold Obligations.FeedSetsAct
  intro b s t hs h
  rw [execFeed_act hs h]
  exact actOf_eq_true_iff t.rx.state

/-- Settles O7: each sync byte has its one accepted value. -/
theorem feedSyncBytes : Obligations.FeedSyncBytes := by
  unfold Obligations.FeedSyncBytes
  intro b s
  refine ⟨fun h hb => ?_, fun h hb => ?_, fun h hb => ?_, fun h hb => ?_⟩
  · rw [exec_feed_of_idle b h, feedIdle_sync s.rx hb]
    rfl
  · rw [exec_feed_of_idle b h, feedIdle_other s.rx hb]
    rfl
  · rw [exec_feed_of_sync1 b h, feedSync1_sync s.rx hb]
    rfl
  · rw [exec_feed_of_sync1 b h, feedSync1_other s.rx hb]
    rfl

/-- Settles O8: the two direction tokens, and every other byte. -/
theorem feedDirectionByte : Obligations.FeedDirectionByte := by
  unfold Obligations.FeedDirectionByte
  intro b s h
  rw [exec_feed_of_sync2 b h]
  refine ⟨fun hb => ?_, fun hb => ?_, fun hc hr => ?_⟩
  · rw [feedSync2_command s.rx hb]
    rfl
  · rw [feedSync2_reply s.rx hb]
    rfl
  · rw [feedSync2_other s.rx hc hr]
    rfl

/-- Settles O9: the length fits `RXBUF` or it does not. -/
theorem feedLengthByte : Obligations.FeedLengthByte := by
  unfold Obligations.FeedLengthByte
  intro b s h
  rw [exec_feed_of_direction b h]
  refine ⟨fun hfits => ?_, fun hover => ?_⟩
  · rw [feedDirection_fits s.rx hfits]
    rfl
  · rw [feedDirection_oversized s.rx hover]
    rfl

/-- Settles O10: every opcode byte is accepted. -/
theorem feedOpcodeByte : Obligations.FeedOpcodeByte := by
  unfold Obligations.FeedOpcodeByte
  intro b s h
  rw [exec_feed_of_length b h]
  rfl

/-- Settles O12: the payload is full, so the byte is held against the checksum. -/
theorem feedChecksumByte : Obligations.FeedChecksumByte := by
  unfold Obligations.FeedChecksumByte
  intro b s h hfull
  rw [exec_feed_of_payload_full b h (congrArg BitVec.toNat hfull).ge]
  refine ⟨fun hb => ?_, fun hb => ?_⟩
  · rw [feedChecksum_match s.rx hb]
    rfl
  · rw [feedChecksum_mismatch s.rx hb]
    rfl

end Sys2Proof.Machine.RxFrameParser
end

