-- ==== Sys2Proof/Proofs/RxPayloadRead.lean ====
section
/-! PROOFS. The read port's guard and bound, and ACK (41_rx_payload_read.md R140, R141, R150). -/

namespace Sys2Proof.Machine

/-! ## The guards where they fault -/

/-- The read-port guard faults outside `COMPLETE` (R140). -/
theorem readPortGuard_notReady {s : State} {k : Result} (hc : s.rx.state ≠ .complete) (hr : s.rx.state ≠ .reserved) :
    readPortGuard s k = .next (raise (.rdNotReady s.rx.state) s) := by
  rw [readPortGuard, if_neg hc, if_neg hr]

/-- The read-port guard lets the operation run in `COMPLETE`. -/
theorem readPortGuard_complete {s : State} {k : Result} (hc : s.rx.state = .complete) : readPortGuard s k = k :=
  if_pos hc

/-- The read bound faults past `RCNT` (R150). -/
theorem readBound_past {n : Nat} {s : State} {k : Result} (hn : s.rx.rcnt.toNat < s.rx.rcur.toNat + n) :
    readBound n s k = .next (raise (.rdOverrun s.rx.rcur n) s) :=
  if_pos hn

/-! ## What the read-port operations check first -/

/-- Every read-port operation is behind the burst guard and then the read-port guard (R207). -/
theorem exec_readPort {i : Instr} (s : State) (hi : isReadPort i = true) :
    ∃ k, exec i s = outsideBurst s (readPortGuard s k) := by
  cases i with
  | remaining | readU8 | readU16 | readU32 | advance n => exact ⟨_, rfl⟩
  | feed | reset | ack | txBegin | txSetResult | txWriteU8 | txWriteU16 | txWriteU32 | txWriteBytes | txWriteText
  | txSend | data => cases hi

/-- A READ of `n` bytes and ADVANCE `n` check the read bound next (R207). -/
theorem exec_boundedRead {i : Instr} {n : Nat} (s : State)
    (hi : (i = .readU8 ∧ n = 1) ∨ (i = .readU16 ∧ n = 2) ∨ (i = .readU32 ∧ n = 4) ∨
      (∃ m : Byte, i = .advance m ∧ n = m.toNat)) :
    ∃ k, exec i s = outsideBurst s (readPortGuard s (readBound n s k)) := by
  rcases hi with ⟨rfl, rfl⟩ | ⟨rfl, rfl⟩ | ⟨rfl, rfl⟩ | ⟨m, rfl, rfl⟩ <;> exact ⟨_, rfl⟩

/-! ## The obligations -/

/-- Settles O20: the read-port guard, the first check behind the burst guard, faults. -/
theorem readPortNeedsComplete : Obligations.ReadPortNeedsComplete := by
  unfold Obligations.ReadPortNeedsComplete
  intro i s hi hb hc hr
  obtain ⟨k, hk⟩ := exec_readPort s hi
  refine ⟨_, ?_, raise_faulted (.rdNotReady s.rx.state) s, hb⟩
  rw [hk, outsideBurst_of_none hb, readPortGuard_notReady hc hr]

/-- Settles O24: both guards pass and the read bound faults, before the cursor moves. -/
theorem readPastReceivedFaults : Obligations.ReadPastReceivedFaults := by
  unfold Obligations.ReadPastReceivedFaults
  intro i n s hi hb hc hn
  obtain ⟨k, hk⟩ := exec_boundedRead s hi
  refine ⟨_, ?_, raise_faulted (.rdOverrun s.rx.rcur n) s, hb⟩
  rw [hk, outsideBurst_of_none hb, readPortGuard_complete hc, readBound_past hn]

/-- Settles O19: the release behind the burst guard; with other arg bits set the word decodes to nothing. -/
theorem ackReleasesFrame : Obligations.AckReleasesFrame := by
  unfold Obligations.AckReleasesFrame
  intro s
  refine ⟨fun hb => ?_, fun hb arg harg => ?_, fun hb => ?_⟩
  · exact outsideBurst_of_none hb
  · have hrejected : decodeCmd (cmdWord 0x01 arg) = .rejected .reservedArgBits :=
      decodeCmd_of_noOperand (by simp) (by simpa using harg)
    obtain ⟨t, ht, hf, -⟩ := rejectWord_outsideBurst (cmdWord 0x01 arg) hb
    exact ⟨t, (runItem_of_rejected s hrejected).trans ht, hf⟩
  · exact outsideBurst_of_some hb

end Sys2Proof.Machine
end

