-- ==== Sys2Proof/Proofs/Exceptions.lean ====
section
/-! PROOFS. Fault entry, fault return and the priority of faults (60_exceptions.md R205, R206, R207, R209). -/

namespace Sys2Proof.Machine

/-! ## The faults an operation can report -/

/-- The fault `e` applies to the operation `i` in `s` with every check before it in R207's order passed. -/
inductive FirstFailedCheck (i : Instr) (s : State) : FaultEntry → Prop where
  | illegalOp (w : CmdWord) : FirstFailedCheck i s (.illegalOp w)
  | rdNotReady (hi : isReadPort i = true) (hc : s.rx.state ≠ .complete) : FirstFailedCheck i s (.rdNotReady s.rx.state)
  | txNotArmed (hi : isTx i = true) (ha : s.tx.tarm = false) : FirstFailedCheck i s .txNotArmed
  | rdOverrun (n : Nat) (hi : isReadPort i = true) (hc : s.rx.state = .complete) :
      FirstFailedCheck i s (.rdOverrun s.rx.rcur n)
  | wrOverflow (n : Nat) (hi : isTx i = true) (ha : s.tx.tarm = true) : FirstFailedCheck i s (.wrOverflow s.tx.tlen n)

/-- The check reads no open burst. -/
theorem FirstFailedCheck.of_burst {i : Instr} {s : State} {b : Option Burst} {e : FaultEntry}
    (h : FirstFailedCheck i { s with burst := b } e) : FirstFailedCheck i s e := by
  cases h with
  | illegalOp w => exact .illegalOp w
  | rdNotReady hi hc => exact .rdNotReady hi hc
  | txNotArmed hi ha => exact .txNotArmed hi ha
  | rdOverrun n hi hc => exact .rdOverrun n hi hc
  | wrOverflow n hi ha => exact .wrOverflow n hi ha

/-- `RD_OVERRUN` is reported by the read port alone, and only in `COMPLETE` (R204, R207). -/
theorem FirstFailedCheck.of_rdOverrun {i : Instr} {s : State} {e : FaultEntry} (h : FirstFailedCheck i s e)
    (he : e.fault = .rdOverrun) : isReadPort i = true ∧ s.rx.state = .complete := by
  cases h with
  | rdOverrun n hi hc => exact ⟨hi, hc⟩
  | illegalOp | rdNotReady | txNotArmed | wrOverflow => cases he

/-- `WR_OVERFLOW` is reported by the TX operations alone, and only while armed (R204, R207). -/
theorem FirstFailedCheck.of_wrOverflow {i : Instr} {s : State} {e : FaultEntry} (h : FirstFailedCheck i s e)
    (he : e.fault = .wrOverflow) : isTx i = true ∧ s.tx.tarm = true := by
  cases h with
  | wrOverflow n hi ha => exact ⟨hi, ha⟩
  | illegalOp | rdNotReady | txNotArmed | rdOverrun => cases he

/-- A fault reported on a beat, which gives no `rsp_valid` (assumption 9), is still the same fault. -/
theorem Faulted.on_beat {e : FaultEntry} {s t : State} (h : Faulted e s t) : Faulted e s (asBeat t) :=
  ⟨h.register, h.log, h.rspFault, h.rspData,
    ⟨h.frame.cfg, h.frame.rx, h.frame.tx, h.frame.txOut, h.frame.txPending, h.frame.epoch, h.frame.env⟩⟩

/-- Where the result `k` of the operation `i` in `s` is a next state, it is that of one fault in R207's order, or one
without a fault: `FAULT` and the log as they were. -/
def FaultsInOrder (i : Instr) (s : State) (k : Result) : Prop :=
  ∀ t, k = .next t →
    (∃ e, Faulted e s t ∧ FirstFailedCheck i s e) ∨ (t.faultLog = s.faultLog ∧ t.fault = s.fault)

/-! ## One rule per form of result: no fault, a fault, and each guard -/

section
variable {i : Instr} {s : State} {k : Result}

theorem faultsInOrder_kept {t : State} (hlog : t.faultLog = s.faultLog) (hfault : t.fault = s.fault) :
    FaultsInOrder i s (.next t) := by
  rintro _ ⟨⟩
  exact .inr ⟨hlog, hfault⟩

theorem faultsInOrder_faulted {e : FaultEntry} {t : State} (hf : Faulted e s t) (he : FirstFailedCheck i s e) :
    FaultsInOrder i s (.next t) := by
  rintro _ ⟨⟩
  exact .inl ⟨e, hf, he⟩

theorem faultsInOrder_stop (r : Fault) : FaultsInOrder i s (.fault r) := fun _ h => by cases h

theorem faultsInOrder_outsideBurst (h : FaultsInOrder i s k) : FaultsInOrder i s (outsideBurst s k) :=
  fun t ht => h t (outsideBurst_next ht).2

theorem faultsInOrder_readPortGuard (hi : isReadPort i = true) (h : s.rx.state = .complete → FaultsInOrder i s k) :
    FaultsInOrder i s (readPortGuard s k) := fun t ht => by
  rcases readPortGuard_next ht with ⟨hc, hk⟩ | ⟨hc, -, rfl⟩
  · exact h hc t hk
  · exact .inl ⟨_, raise_faulted _ s, .rdNotReady hi hc⟩

theorem faultsInOrder_readBound (n : Nat) (hi : isReadPort i = true) (hc : s.rx.state = .complete)
    (h : FaultsInOrder i s k) : FaultsInOrder i s (readBound n s k) := fun t ht => by
  rcases readBound_next ht with ⟨-, hk⟩ | ⟨-, rfl⟩
  · exact h t hk
  · exact .inl ⟨_, raise_faulted _ s, .rdOverrun n hi hc⟩

theorem faultsInOrder_txGuard (hi : isTx i = true) (h : s.tx.tarm = true → FaultsInOrder i s k) :
    FaultsInOrder i s (txGuard s k) := fun t ht => by
  rcases txGuard_next ht with ⟨ha, hk⟩ | ⟨ha, rfl⟩
  · exact h ha t hk
  · exact .inl ⟨_, raise_faulted _ s, .txNotArmed hi ha⟩

theorem faultsInOrder_writeBound (n : Nat) (hi : isTx i = true) (ha : s.tx.tarm = true) (h : FaultsInOrder i s k) :
    FaultsInOrder i s (writeBound n s k) := fun t ht => by
  rcases writeBound_next ht with ⟨-, hk⟩ | ⟨-, rfl⟩
  · exact h t hk
  · exact .inl ⟨_, raise_faulted _ s, .wrOverflow n hi ha⟩

/-- The last beat closes the burst before its operation runs, and its response is a beat's. -/
theorem faultsInOrder_lastBeat (h : FaultsInOrder i { s with burst := none } k) :
    FaultsInOrder i s (asBeatResult k) := fun t ht => by
  obtain ⟨u, hu, rfl⟩ := asBeatResult_next ht
  rcases h u hu with ⟨e, hf, he⟩ | hkept
  · have hf : Faulted e s u := hf.of_burst_rsp (b := none) (r := s.rsp)
    exact .inl ⟨e, hf.on_beat, he.of_burst⟩
  · exact .inr hkept

/-! ## The read and write forms, a burst and its beats -/

theorem faultsInOrder_readField (n : Nat) (hi : isReadPort i = true) : FaultsInOrder i s (readField n s) := by
  refine faultsInOrder_outsideBurst <| faultsInOrder_readPortGuard hi fun hc => faultsInOrder_readBound n hi hc ?_
  split
  · exact faultsInOrder_stop _
  · exact faultsInOrder_kept rfl rfl

theorem faultsInOrder_writeField (ds : List Byte) (hi : isTx i = true) : FaultsInOrder i s (writeField ds s) :=
  faultsInOrder_txGuard hi fun ha => faultsInOrder_writeBound _ hi ha (faultsInOrder_kept rfl rfl)

theorem faultsInOrder_openBurst (kind : BurstKind) (n : Byte) (hi : isTx i = true) :
    FaultsInOrder i s (openBurst kind n s) := by
  refine faultsInOrder_outsideBurst ?_
  split
  · exact faultsInOrder_writeField [] hi
  · exact faultsInOrder_kept rfl rfl

theorem faultsInOrder_commitBurst (b : Burst) (hi : isTx i = true) : FaultsInOrder i s (commitBurst b s) := by
  unfold commitBurst
  split
  · exact faultsInOrder_faulted (raise_faulted _ s) (.illegalOp _)
  · exact faultsInOrder_writeField b.beats hi

theorem faultsInOrder_takeBeat (d : Byte) (bad : Bool) (b : Burst) (hi : isTx i = true) :
    FaultsInOrder i s (takeBeat d bad b s) := by
  unfold takeBeat
  split
  · exact faultsInOrder_kept rfl rfl
  · exact faultsInOrder_lastBeat (faultsInOrder_commitBurst _ hi)

end

/-! ## Every operation -/

/-- Every operation but ACK and RESET faults once, in R207's order, or leaves `FAULT` and the log as they were. -/
theorem exec_faultsInOrder {i : Instr} (s : State) (hack : i ≠ .ack) (hreset : i ≠ .reset) :
    FaultsInOrder i s (exec i s) := by
  cases i with
  | ack => exact absurd rfl hack
  | reset => exact absurd rfl hreset
  | feed b =>
    intro t h
    rw [execFeed_frame h]
    exact .inr ⟨rfl, rfl⟩
  | remaining =>
    exact faultsInOrder_outsideBurst <| faultsInOrder_readPortGuard rfl fun _ => faultsInOrder_kept rfl rfl
  | readU8 | readU16 | readU32 => exact faultsInOrder_readField _ rfl
  | advance n =>
    exact faultsInOrder_outsideBurst <| faultsInOrder_readPortGuard rfl fun hc =>
      faultsInOrder_readBound _ rfl hc (faultsInOrder_kept rfl rfl)
  | txBegin op8 => exact faultsInOrder_outsideBurst (faultsInOrder_kept rfl rfl)
  | txSetResult r =>
    refine faultsInOrder_outsideBurst ?_
    split
    · exact faultsInOrder_faulted (raise_faulted _ s) (.illegalOp _)
    · exact faultsInOrder_txGuard rfl fun _ => faultsInOrder_kept rfl rfl
  | txWriteU8 v | txWriteU16 v | txWriteU32 v => exact faultsInOrder_outsideBurst (faultsInOrder_writeField _ rfl)
  | txWriteBytes n | txWriteText n => exact faultsInOrder_openBurst _ n rfl
  | txSend =>
    refine faultsInOrder_outsideBurst <| faultsInOrder_txGuard rfl fun _ => ?_
    split
    · exact faultsInOrder_stop _
    · exact faultsInOrder_kept rfl rfl
  | data d =>
    rw [exec, execData]
    split
    · exact faultsInOrder_faulted (asBeat_raise_faulted _ s) (.illegalOp _)
    · exact faultsInOrder_takeBeat d false _ rfl

/-- ACK and RESET clear `FAULT` and keep the log (R206). -/
theorem exec_release_fault {i : Instr} {s t : State} (hi : i = .ack ∨ i = .reset) (h : exec i s = .next t) :
    t.faultLog = s.faultLog ∧ t.fault = .none := by
  rcases hi with rfl | rfl
  · obtain ⟨-, rfl⟩ := execAck_next h
    exact ⟨rfl, rfl⟩
  · obtain ⟨-, rfl⟩ := execReset_next h
    exact ⟨rfl, rfl⟩

/-- An operation that adds to the log faults once, in R207's order. -/
theorem exec_faulted_of_log {i : Instr} {s t : State} (h : exec i s = .next t) (hlog : t.faultLog ≠ s.faultLog) :
    ∃ e, Faulted e s t ∧ FirstFailedCheck i s e := by
  by_cases hi : i = .ack ∨ i = .reset
  · exact absurd (exec_release_fault hi h).1 hlog
  · obtain ⟨hack, hreset⟩ := not_or.mp hi
    exact (exec_faultsInOrder s hack hreset t h).resolve_right fun hkept => hlog hkept.1

/-! ## The log over one step -/

/-- What a step does around an item leaves the log alone. -/
theorem Quiet.faultLog {s t : State} (h : Quiet s t) : t.faultLog = s.faultLog := by rw [h.frame]

/-- No item of a port shortens or changes the log. -/
theorem Change.faultLog_prefix {s t : State} (h : Change s t) : s.faultLog <+: t.faultLog := by
  cases h with
  | feed b t h =>
    rw [execFeed_frame h]
  | fault e | strayBeat e | lastFault e => exact List.prefix_append _ [e]
  | _ => exact List.prefix_rfl

/-! ## The checks an operation meets first -/

/-- Every result code but 3 names a result (R172). -/
theorem resultOfCode_isSome : ∀ r : BitVec 2, r ≠ 3#2 → (resultOfCode r).isSome = true := by decide

/-- TxGuard faults while not armed (R170). -/
theorem txGuard_notArmed {s : State} {k : Result} (ha : s.tx.tarm = false) :
    txGuard s k = .next (raise .txNotArmed s) :=
  if_neg (by simp [ha])

/-- Every operation that checks `TARM` when it is taken has TxGuard right behind the burst guard (R170, R207). -/
theorem exec_needsArmed {i : Instr} (s : State) (hi : needsArmed i = true) :
    ∃ k, exec i s = outsideBurst s (txGuard s k) := by
  cases i with
  | txWriteU8 | txWriteU16 | txWriteU32 | txSend => exact ⟨_, rfl⟩
  | txSetResult r =>
    obtain ⟨res, hres⟩ := Option.isSome_iff_exists.mp (resultOfCode_isSome r (by simpa [needsArmed] using hi))
    exact ⟨_, by rw [exec, execTxSetResult, hres]⟩
  | txWriteBytes n | txWriteText n =>
    obtain rfl : n = 0 := by simpa [needsArmed] using hi
    exact ⟨_, rfl⟩
  | feed | reset | ack | remaining | readU8 | readU16 | readU32 | advance | txBegin | data => cases hi

/-- The last beat of a burst closes it and runs its operation, however many beats the burst holds already. -/
theorem takeBeat_closing {b : Burst} (d : Byte) (bad : Bool) (s : State) (h : b.count.toNat ≤ b.beats.length + 1) :
    takeBeat d bad b s = asBeatResult (commitBurst (b.push d bad) { s with burst := none }) :=
  if_neg (by simpa using h)

/-- The last beat of a burst reports the fault that the burst's operation takes. -/
theorem takeBeat_closing_faulted {d : Byte} {bad : Bool} {b : Burst} {e : FaultEntry} {s : State}
    (hlast : b.count.toNat ≤ b.beats.length + 1)
    (h : commitBurst (b.push d bad) { s with burst := none } = .next (raise e { s with burst := none })) :
    ∃ t, takeBeat d bad b s = .next t ∧ Faulted e s t := by
  have hf : Faulted e s (raise e { s with burst := none }) :=
    (raise_faulted e { s with burst := none }).of_burst_rsp (b := none) (r := s.rsp)
  exact ⟨_, by rw [takeBeat_closing d bad s hlast, h, asBeatResult], hf.on_beat⟩

/-- A burst with a bad beat checks nothing else (R89, R207). -/
theorem commitBurst_bad {b : Burst} (s : State) (h : b.bad = true) :
    commitBurst b s = .next (raise (.illegalOp (burstHeader b.kind b.count)) s) :=
  if_pos h

/-- A burst with no bad beat checks `TARM` first (R170, R207). -/
theorem commitBurst_notArmed {b : Burst} {s : State} (h : b.bad = false) (ha : s.tx.tarm = false) :
    commitBurst b s = .next (raise .txNotArmed s) :=
  (if_neg (by simp [h])).trans (writeField_notArmed ha)

/-! ## The obligations -/

/-- Settles O40: an operation that adds to the log is one that faulted. -/
theorem faultWritesOnlyFaultRegister : Obligations.FaultWritesOnlyFaultRegister := by
  unfold Obligations.FaultWritesOnlyFaultRegister
  intro i s t h hlog
  obtain ⟨e, hf, -⟩ := exec_faulted_of_log h hlog
  exact ⟨e, hf⟩

/-- Settles O41: a fault keeps a nonzero `FAULT`, and every change of a step keeps the log's entries. -/
theorem faultClearedByAckOrResetOnly : Obligations.FaultClearedByAckOrResetOnly := by
  unfold Obligations.FaultClearedByAckOrResetOnly
  refine ⟨fun i s t hs h hchanged => ?_, fun s t h => ?_⟩
  · by_cases hi : i = .ack ∨ i = .reset
    · exact ⟨hi, (exec_release_fault hi h).2⟩
    · obtain ⟨hack, hreset⟩ := not_or.mp hi
      rcases exec_faultsInOrder s hack hreset t h with ⟨e, hf, -⟩ | ⟨-, hkept⟩
      · exact absurd (hf.register.trans (if_neg hs)) hchanged
      · exact absurd hkept hchanged
  · exact step_keeps (P := fun u => s.faultLog <+: u.faultLog) (fun _ _ ha hq => hq.faultLog ▸ ha)
      (fun _ _ ha hc => ha.trans hc.faultLog_prefix) List.prefix_rfl h

/-- Settles O42: the encoding is checked by the decoder or by the burst's beats, the guards stand before the bounds. -/
theorem faultPriority : Obligations.FaultPriority := by
  unfold Obligations.FaultPriority
  intro w s
  refine ⟨fun hb e he => ?_, fun hb i hd hi hc hr => ?_, fun hb i hd hi ha => ?_, fun b hb hop hlast => ⟨?_, ?_⟩,
    fun i t e hd ht hlog => ?_⟩
  · obtain ⟨t, ht, hf, -⟩ := rejectWord_outsideBurst w hb
    exact ⟨t, (runItem_of_rejected s he).trans ht, hf⟩
  · obtain ⟨t, ht, hf, -⟩ := readPortNeedsComplete i s hi hb hc hr
    exact ⟨t, (runItem_of_decoded s hd).trans ht, hf⟩
  · obtain ⟨k, hk⟩ := exec_needsArmed s hi
    refine ⟨_, ?_, raise_faulted .txNotArmed s⟩
    rw [runItem_of_decoded s hd, hk, outsideBurst_of_none hb, txGuard_notArmed ha]
  · intro hbad
    rw [runItem_beat hb hop]
    have hpush : (b.push ((cmdArg w).setWidth 8) (decide (2 ^ 8 ≤ (cmdArg w).toNat))).bad = true := by simpa using hbad
    obtain ⟨t, ht, hf⟩ := takeBeat_closing_faulted hlast (commitBurst_bad _ hpush)
    exact ⟨t, _, ht, hf, rfl⟩
  · intro hbad harg ha
    rw [runItem_beat hb hop]
    exact takeBeat_closing_faulted hlast (commitBurst_notArmed (by simpa [hbad] using harg) ha)
  · rw [runItem_of_decoded s hd] at ht
    obtain ⟨e', hf, hcheck⟩ := exec_faulted_of_log ht (by simp [hlog])
    obtain rfl : e' = e := by simpa [hlog] using hf.log.symm
    exact ⟨hcheck.of_rdOverrun, hcheck.of_wrOverflow⟩

end Sys2Proof.Machine
end

