-- ==== Sys2Proof/Proofs/Other.lean ====
section
/-! PROOFS. The encoding, the invariants of every step, the frames of the operations, the read port and the TX framer, whole
frames on the wire, and the turns and clock edges (00_scope.md to 70_reset_and_hazards.md, as each part names them). -/

/-! ## The command port's encoding (30_encoding.md R81 to R85) -/

namespace Sys2Proof

/-- A command word is the two fields it was built from. -/
theorem eq_cmdWord_iff {w : CmdWord} {op : Byte} {arg : Word32} :
    w = cmdWord op arg ↔ cmdOp w = op ∧ cmdArg w = arg := by
  refine ⟨fun h => by simp [h], fun ⟨hop, harg⟩ => ?_⟩
  rw [← hop, ← harg, cmdWord_fields]

/-- A word with no operand decodes where its `arg` is 0. -/
theorem operand_none (op : Byte) (build : BitVec 0 → Instr) : operand 0 (cmdWord op 0#32) build = .ok (build 0#0) :=
  operand_cmdWord (by decide) op 0#0 build

theorem resultOperand_cmdWord (op : Byte) {r : BitVec 2} (hr : r ≠ 3#2) :
    resultOperand (cmdWord op (r.setWidth 32)) = .ok (.txSetResult r) := by
  have hlt : (r.setWidth 32).toNat < 4 := by
    rw [BitVec.toNat_setWidth]
    exact Nat.lt_of_le_of_lt (Nat.mod_le _ _) r.isLt
  have hback : (r.setWidth 32).setWidth 2 = r := by
    rw [BitVec.setWidth_setWidth_of_le _ (by decide), BitVec.setWidth_eq]
  rw [resultOperand, cmdArg_cmdWord, if_pos hlt, hback, if_neg hr]

/-- A result accepted is not 3, and it is the whole of `arg`. -/
theorem resultOperand_ok {w : CmdWord} {i : Instr} (h : resultOperand w = .ok i) :
    ∃ r : BitVec 2, r ≠ 3#2 ∧ i = .txSetResult r ∧ cmdArg w = r.setWidth 32 := by
  unfold resultOperand at h
  split at h
  · rename_i hlt
    split at h
    · cases h
    · rename_i hr
      cases h
      exact ⟨_, hr, rfl, BitVec.eq_of_toNat_eq (by simp only [BitVec.toNat_setWidth]; omega)⟩
  · cases h

/-- An operand is rejected for its other arg bits only, and exactly where they are not all zero (R84). -/
theorem operand_eq_rejected_iff {k : Nat} {w : CmdWord} {build : BitVec k → Instr} {e : DecodeError} :
    operand k w build = .rejected e ↔ e = .reservedArgBits ∧ 2 ^ k ≤ (cmdArg w).toNat := by
  unfold operand
  split
  · rename_i h
    simp [Nat.not_le.mpr h]
  · rename_i h
    simp [Nat.not_lt.mp h, eq_comm]

/-- A result is rejected for its other arg bits (R84), or because it is 3 (R85). -/
theorem resultOperand_eq_rejected_iff {w : CmdWord} {e : DecodeError} :
    resultOperand w = .rejected e ↔
      (e = .reservedArgBits ∧ 2 ^ 2 ≤ (cmdArg w).toNat) ∨ (e = .reservedResult ∧ cmdArg w = 3) := by
  have h3 : cmdArg w = 3#32 ↔ (cmdArg w).toNat = 3 := BitVec.toNat_inj.symm
  unfold resultOperand
  split
  · rename_i hlt
    have hr : (cmdArg w).setWidth 2 = 3#2 ↔ (cmdArg w).toNat = 3 := by
      rw [← BitVec.toNat_inj, BitVec.toNat_setWidth, Nat.mod_eq_of_lt hlt]
      rfl
    by_cases h : (cmdArg w).toNat = 3
    · simp [hr, h3, h, @eq_comm _ e]
    · simp [hr, h3, h, hlt]
  · rename_i hge
    have hne : (cmdArg w).toNat ≠ 3 := by omega
    simp [h3, hne, Nat.not_lt.mp hge, @eq_comm _ e]

/-- The rows of R82 by the form of their operand. -/
inductive CmdRow (w : CmdWord) : Prop where
  | undefined
      (hop : cmdOp w = 0x00 ∨ (0x07 ≤ (cmdOp w).toNat ∧ (cmdOp w).toNat ≤ 0x0F) ∨
        (0x18 ≤ (cmdOp w).toNat ∧ (cmdOp w).toNat ≤ 0xFE))
  | none (build : BitVec 0 → Instr) (hop : cmdOp w ∈ [0x01#8, 0x02#8, 0x03#8, 0x04#8, 0x05#8, 0x17#8])
      (hd : decodeCmd w = operand 0 w build)
  | byte (build : Byte → Instr) (hop : cmdOp w ∈ [0x06#8, 0x10#8, 0x12#8, 0x15#8, 0x16#8, 0xFF#8])
      (hd : decodeCmd w = operand 8 w build)
  | result (hop : cmdOp w = 0x11) (hd : decodeCmd w = resultOperand w)
  | half (build : Half → Instr) (hop : cmdOp w = 0x13) (hd : decodeCmd w = operand 16 w build)
  | word (i : Instr) (hop : cmdOp w = 0x14) (hd : decodeCmd w = .ok i)

/-- Every word lies in one of those rows (R82). -/
theorem cmdRow_total (w : CmdWord) : CmdRow w := by
  have hop : ∀ {n : Nat}, (cmdOp w).toNat = n → cmdOp w = BitVec.ofNat 8 n := fun h => by
    rw [← h, BitVec.ofNat_toNat, BitVec.setWidth_eq]
  generalize hd : decodeCmd w = d
  have hrow := hd
  unfold decodeCmd at hrow
  split at hrow
  case h_1 h | h_2 h | h_3 h | h_4 h | h_5 h | h_14 h =>
    exact .none _ (by rw [hop h]; decide) (hd.trans hrow.symm)
  case h_6 h | h_7 h | h_9 h | h_12 h | h_13 h | h_15 h =>
    exact .byte _ (by rw [hop h]; decide) (hd.trans hrow.symm)
  case h_8 h => exact .result (hop h) (hd.trans hrow.symm)
  case h_10 h => exact .half _ (hop h) (hd.trans hrow.symm)
  case h_11 h => exact .word _ (hop h) (hd.trans hrow.symm)
  case h_16 =>
    refine .undefined (Or.imp_left (fun h0 : (cmdOp w).toNat = 0 => hop h0) ?_)
    have hlt := (cmdOp w).isLt
    simp only [imp_false] at *
    omega

/-- Settles O1: thirteen fixed items. -/
theorem sampleWordsDecode : Obligations.SampleWordsDecode := by
  unfold Obligations.SampleWordsDecode
  decide

/-- Settles O2: each row's operand placed in `arg` reads back. -/
theorem decodeInvertsEncode : Obligations.DecodeInvertsEncode := by
  unfold Obligations.DecodeInvertsEncode
  intro i hi
  cases i with
  | feed | reset => rfl
  | ack | remaining | readU8 | readU16 | readU32 | txSend => simp [encode, decode, decodeCmd, operand_none]
  | advance | txBegin | txWriteU8 | txWriteU16 | txWriteBytes | txWriteText | data =>
    simp [encode, decode, decodeCmd, operand_cmdWord]
  | txSetResult r =>
    have hr : r ≠ 3#2 := by simpa [Instr.wf] using hi
    simp [encode, decode, decodeCmd, resultOperand_cmdWord _ hr]
  | txWriteU32 v => simp [encode, decode, decodeCmd, fullOperand]

/-- A command word that decodes is well formed, and it is the word its operation encodes to. -/
theorem encode_of_decodeCmd {w : CmdWord} {i : Instr} (h : decodeCmd w = .ok i) : encode i = .cmd w ∧ i.wf = true := by
  have hword : ∀ {n : Nat} {arg : Word32}, (cmdOp w).toNat = n → cmdArg w = arg →
      cmdWord (BitVec.ofNat 8 n) arg = w := fun hop harg => by
    rw [← hop, ← harg, BitVec.ofNat_toNat, BitVec.setWidth_eq, cmdWord_fields]
  unfold decodeCmd at h
  split at h
  case h_8 hop =>
    obtain ⟨r, hr, rfl, harg⟩ := resultOperand_ok h
    exact ⟨congrArg Item.cmd (hword hop harg), by simpa [Instr.wf] using hr⟩
  case h_11 hop =>
    cases h
    exact ⟨congrArg Item.cmd (hword hop rfl), rfl⟩
  case h_16 => cases h
  case h_1 hop | h_2 hop | h_3 hop | h_4 hop | h_5 hop | h_14 hop =>
    obtain ⟨v, rfl, harg⟩ := operand_ok (by decide) h
    exact ⟨congrArg Item.cmd (hword hop (harg.trans (by simp [BitVec.eq_nil v]))), rfl⟩
  all_goals
    rename_i hop
    obtain ⟨v, rfl, harg⟩ := operand_ok (by decide) h
    exact ⟨congrArg Item.cmd (hword hop harg), rfl⟩

/-- Settles O3: the FEED and `rst` ports are plain, and the command port is `encode_of_decodeCmd`. -/
theorem encodeInvertsDecode : Obligations.EncodeInvertsDecode := by
  unfold Obligations.EncodeInvertsDecode
  intro it i h
  cases it with
  | rst | rx =>
    cases h
    exact ⟨rfl, rfl⟩
  | cmd w => exact encode_of_decodeCmd h

/-- The `op`s that R82 marks illegal are none of its rows. -/
theorem undefinedOp_not_mem_table : ∀ {op : Byte},
    op = 0x00 ∨ (0x07 ≤ op.toNat ∧ op.toNat ≤ 0x0F) ∨ (0x18 ≤ op.toNat ∧ op.toNat ≤ 0xFE) →
      op ∉ [0x01#8, 0x02#8, 0x03#8, 0x04#8, 0x05#8, 0x06#8, 0x10#8, 0x11#8, 0x12#8, 0x13#8, 0x14#8, 0x15#8, 0x16#8,
        0x17#8, 0xFF#8] := by
  intro op hop hmem
  simp only [List.mem_cons, List.not_mem_nil, or_false] at hmem
  rcases hmem with rfl | rfl | rfl | rfl | rfl | rfl | rfl | rfl | rfl | rfl | rfl | rfl | rfl | rfl | rfl <;>
    simp at hop

/-- Settles O4: row by row, from what each form of operand rejects. -/
theorem rejectedWordsAreTheIllegalOnes : Obligations.RejectedWordsAreTheIllegalOnes := by
  unfold Obligations.RejectedWordsAreTheIllegalOnes
  intro w
  have hresult : w = 0x1100000003#40 ↔ cmdOp w = 0x11 ∧ cmdArg w = 3 := eq_cmdWord_iff (op := 0x11) (arg := 3)
  rw [hresult, decode]
  cases cmdRow_total w with
  | undefined hop =>
    have hnot := undefinedOp_not_mem_table hop
    simp only [List.mem_cons, List.not_mem_nil, or_false, not_or] at hnot
    have hd := decodeCmd_of_undefinedOp hop
    exact ⟨iff_of_true hd hop, by simp [hd, hnot], by simp [hd, hnot]⟩
  | none build hop hd =>
    simp only [List.mem_cons, List.not_mem_nil, or_false] at hop
    have harg : 2 ^ 0 ≤ (cmdArg w).toNat ↔ cmdArg w ≠ 0 := by
      rw [Nat.pow_zero, Nat.one_le_iff_ne_zero, ne_eq, ne_eq, ← BitVec.toNat_inj]
      rfl
    simp only [hd, operand_eq_rejected_iff, harg]
    rcases hop with hop | hop | hop | hop | hop | hop <;> simp [hop]
  | byte build hop hd =>
    simp only [List.mem_cons, List.not_mem_nil, or_false] at hop
    simp only [hd, operand_eq_rejected_iff]
    rcases hop with hop | hop | hop | hop | hop | hop <;> simp [hop]
  | result hop hd => simp [hd, resultOperand_eq_rejected_iff, hop]
  | half build hop hd => simp [hd, operand_eq_rejected_iff, hop]
  | word i hop hd => simp [hd, hop]

end Sys2Proof

/-! ## What FEED can do, and the invariants of every step (10_state.md R37, R38; 40_rx_frame_parser.md R113, R114) -/

namespace Sys2Proof.Machine

/-- The transitions of the parser (R113), each with the state and the byte it is taken on; of a drop, which several states
make, only that it is no stall. -/
inductive FeedMove (b : Byte) (s : State) : State → Prop where
  | dropped (hs : s.rx.state ≠ .complete) : FeedMove b s { s with rx := parserTo .idle s.rx }
  | sync1 (hs : s.rx.state = .idle) (hb : b = 0x24) : FeedMove b s { s with rx := parserTo .sync1 s.rx }
  | sync2 (hs : s.rx.state = .sync1) (hb : b = 0x4D) : FeedMove b s { s with rx := parserTo .sync2 s.rx }
  | direction (hs : s.rx.state = .sync2) (d : Direction) :
      FeedMove b s { s with rx := parserTo .direction { s.rx with dir := d } }
  | length (hs : s.rx.state = .direction) (hfits : b.toNat ≤ s.cfg.rxCapacity.toNat) :
      FeedMove b s { s with rx := parserTo .length { s.rx with elen := b, rcnt := 0, rcur := 0, csum := b } }
  | opcode (hs : s.rx.state = .length) : FeedMove b s { s with rx := feedLength b s.rx }
  | payload (hs : s.rx.state = .payload) (hlt : s.rx.rcnt.toNat < s.rx.elen.toNat)
      (hcap : s.rx.rcnt.toNat < s.cfg.rxCapacity.toNat) : FeedMove b s { s with rx := feedPayloadByte b s.rx }
  | completed (hs : s.rx.state = .payload) (hfull : s.rx.elen.toNat ≤ s.rx.rcnt.toNat) (hb : b = s.rx.csum) :
      FeedMove b s { s with rx := parserTo .complete s.rx }
  | stalled (hs : s.rx.state = .complete) : FeedMove b s s

/-- Every FEED that answers a next state makes one of those transitions. -/
theorem execFeed_move {b : Byte} {s t : State} (h : execFeed b s = .next t) : FeedMove b s t := by
  rcases execFeed_next h with ⟨hs, rfl⟩ | ⟨hs, rfl⟩ | ⟨hs, rfl⟩ | ⟨hs, rfl⟩ | ⟨hs, rfl⟩ | ⟨hs, hlt, hcap, rfl⟩ |
    ⟨hs, hfull, rfl⟩ | ⟨hs, rfl⟩
  · by_cases hb : b = 0x24
    · exact feedIdle_sync s.rx hb ▸ .sync1 hs hb
    · exact feedIdle_other s.rx hb ▸ .dropped (by simp [hs])
  · by_cases hb : b = 0x4D
    · exact feedSync1_sync s.rx hb ▸ .sync2 hs hb
    · exact feedSync1_other s.rx hb ▸ .dropped (by simp [hs])
  · by_cases hc : b = 0x3C
    · exact feedSync2_command s.rx hc ▸ .direction hs _
    · by_cases hr : b = 0x3E
      · exact feedSync2_reply s.rx hr ▸ .direction hs _
      · exact feedSync2_other s.rx hc hr ▸ .dropped (by simp [hs])
  · by_cases hfits : b.toNat ≤ s.cfg.rxCapacity.toNat
    · exact feedDirection_fits s.rx hfits ▸ .length hs hfits
    · exact feedDirection_oversized s.rx (Nat.not_le.mp hfits) ▸ .dropped (by simp [hs])
  · exact .opcode hs
  · exact .payload hs hlt hcap
  · by_cases hb : b = s.rx.csum
    · exact feedChecksum_match s.rx hb ▸ .completed hs hfull hb
    · exact feedChecksum_mismatch s.rx hb ▸ .dropped (by simp [hs])
  · exact .stalled hs

/-! ### The machine's invariant by its parts -/

/-- The receive side's part of the machine's invariant (R37, R28). -/
structure RxSound (c : Config) (r : Rx) : Prop where
  rcur_le_rcnt : r.rcur.toNat ≤ r.rcnt.toNat
  rcnt_le_elen : r.rcnt.toNat ≤ r.elen.toNat
  elen_le_capacity : r.elen.toNat ≤ c.rxCapacity.toNat
  state_legal : r.state ≠ .reserved
  wf : r.rxbuf.wf
  inside : ∀ d ∈ r.rxbuf, d.1 < c.rxCapacity.toNat
  written : ∀ i < r.rcnt.toNat, (r.rxbuf.read? i).isSome

/-- The transmit side's part (R38, R34), which `TLEN` and `TXBUF` alone decide. -/
structure TxSound (c : Config) (tlen : Byte) (txbuf : Memory) : Prop where
  tlen_le_capacity : tlen.toNat ≤ c.txCapacity.toNat
  wf : txbuf.wf
  inside : ∀ d ∈ txbuf, d.1 < c.txCapacity.toNat
  written : ∀ i < tlen.toNat, (txbuf.read? i).isSome

/-- The machine's invariant is those parts, with the burst, the log and the bytes pending. -/
theorem machineInv_iff {s : State} :
    MachineInv s ↔ RxSound s.cfg s.rx ∧ TxSound s.cfg s.tx.tlen s.tx.txbuf ∧ BurstAwaitsBeat s ∧ FaultIsLogged s ∧
      s.txPending ≤ s.txOut.length := by
  constructor
  · rintro ⟨⟨h1, h2, h3, h4⟩, h5, ⟨h6, h7, h8, h9⟩, ⟨h10, h11⟩, hburst, hlog, hpending⟩
    exact ⟨⟨h1, h2, h3, h4, h6, h8, h10⟩, ⟨h5, h7, h9, h11⟩, hburst, hlog, hpending⟩
  · rintro ⟨⟨h1, h2, h3, h4, h6, h8, h10⟩, ⟨h5, h7, h9, h11⟩, hburst, hlog, hpending⟩
    exact ⟨⟨h1, h2, h3, h4⟩, h5, ⟨h6, h7, h8, h9⟩, ⟨h10, h11⟩, hburst, hlog, hpending⟩

/-! ### The receive side -/

section
variable {c : Config} {r : Rx}

/-- No register but the counters, `ELEN` and a legal `STATE` matters. -/
theorem RxSound.of_counters (h : RxSound c r) {p : Phase} {d : Direction} {o x : Byte} {a : Bool} (hp : p ≠ .reserved) :
    RxSound c { r with state := p, dir := d, opc := o, csum := x, act := a } :=
  ⟨h.rcur_le_rcnt, h.rcnt_le_elen, h.elen_le_capacity, hp, h.wf, h.inside, h.written⟩

/-- A frame with no byte received has nothing to read. -/
theorem rxSound_of_empty (hcur : r.rcur = 0) (hcnt : r.rcnt = 0) (hlen : r.elen.toNat ≤ c.rxCapacity.toNat)
    (hstate : r.state ≠ .reserved) (hwf : r.rxbuf.wf) (hinside : ∀ d ∈ r.rxbuf, d.1 < c.rxCapacity.toNat) :
    RxSound c r :=
  ⟨by simp [hcur, hcnt], by simp [hcnt], hlen, hstate, hwf, hinside, fun i hi => by simp [hcnt] at hi⟩

/-- The count of a payload byte below `ELEN` does not wrap. -/
theorem feedPayloadByte_rcnt_toNat (b : Byte) (hlt : r.rcnt.toNat < r.elen.toNat) :
    (feedPayloadByte b r).rcnt.toNat = r.rcnt.toNat + 1 := by
  rw [feedPayloadByte_rcnt, rcnt_succ_exact hlt]

/-- A payload byte below `ELEN` is stored at the first index not written yet. -/
theorem RxSound.feedPayloadByte (h : RxSound c r) (b : Byte) (hlt : r.rcnt.toNat < r.elen.toNat) :
    RxSound c (feedPayloadByte b r) := by
  have hcnt := feedPayloadByte_rcnt_toNat b hlt
  refine ⟨?_, ?_, h.elen_le_capacity, nofun, write_wf _ _ h.wf, fun d hd => ?_, fun i hi => ?_⟩
  · rw [hcnt]
    exact Nat.le_succ_of_le h.rcur_le_rcnt
  · rw [hcnt]
    exact hlt
  · rcases mem_write hd with hd | hd
    · rw [hd]
      exact hlt.trans_le h.elen_le_capacity
    · exact h.inside d hd
  · rw [hcnt] at hi
    change ((r.rxbuf.write r.rcnt.toNat b).read? i).isSome = true
    rw [read?_write]
    split
    · rfl
    · exact h.written i (by omega)

end

theorem FeedMove.cfg {b : Byte} {s t : State} (h : FeedMove b s t) : t.cfg = s.cfg := by
  cases h <;> rfl

theorem FeedMove.rxSound {b : Byte} {s t : State} (h : FeedMove b s t) (hs : RxSound s.cfg s.rx) :
    RxSound t.cfg t.rx := by
  cases h with
  | dropped | sync1 | sync2 | direction | opcode | completed => exact hs.of_counters nofun
  | length _ hfits => exact rxSound_of_empty rfl rfl hfits nofun hs.wf hs.inside
  | payload _ hlt => exact hs.feedPayloadByte b hlt
  | stalled => exact hs

theorem Change.rxSound {s t : State} (h : Change s t) (hs : RxSound s.cfg s.rx) : RxSound t.cfg t.rx := by
  cases h with
  | feed b t h => exact (execFeed_move h).rxSound hs
  | reset => exact rxSound_of_empty rfl rfl (Nat.zero_le _) nofun .nil nofun
  | ack => exact rxSound_of_empty rfl rfl (Nat.zero_le _) nofun hs.wf hs.inside
  | cursor v n hc hn =>
    refine ⟨?_, hs.rcnt_le_elen, hs.elen_le_capacity, hs.state_legal, hs.wf, hs.inside, hs.written⟩
    change (BitVec.ofNat 8 (s.rx.rcur.toNat + n)).toNat ≤ s.rx.rcnt.toNat
    rw [BitVec.toNat_ofNat]
    exact (Nat.mod_le _ _).trans hn
  | _ => exact hs

/-! ### The transmit side -/

/-- An empty message has nothing to send. -/
theorem txSound_of_empty {c : Config} {txbuf : Memory} (hwf : txbuf.wf)
    (hinside : ∀ d ∈ txbuf, d.1 < c.txCapacity.toNat) : TxSound c 0 txbuf :=
  ⟨Nat.zero_le _, hwf, hinside, fun i hi => absurd hi (Nat.not_lt_zero i)⟩

/-- Bytes appended within `TX_CAPACITY` are written at the indices that `TLEN` has moved past. -/
theorem TxSound.appendBytes {s : State} (hs : TxSound s.cfg s.tx.tlen s.tx.txbuf) (ds : List Byte)
    (hn : s.tx.tlen.toNat + ds.length ≤ s.cfg.txCapacity.toNat) :
    TxSound s.cfg (appendBytes ds s).tx.tlen (appendBytes ds s).tx.txbuf := by
  have hlen : (Machine.appendBytes ds s).tx.tlen.toNat = s.tx.tlen.toNat + ds.length := appendBytes_tlen hn
  refine ⟨hlen ▸ hn, writeBytes_wf _ _ hs.wf, fun d hd => ?_, fun i hi => ?_⟩
  · rcases mem_writeBytes hd with hd | hd
    · exact hd.2.trans_le hn
    · exact hs.inside d hd
  · rw [hlen] at hi
    rw [appendBytes_tx, read?_writeBytes]
    split
    · simp
      omega
    · exact hs.written i (by omega)

theorem Change.txSound {s t : State} (h : Change s t) (hs : TxSound s.cfg s.tx.tlen s.tx.txbuf) :
    TxSound t.cfg t.tx.tlen t.tx.txbuf := by
  cases h with
  | feed b t h =>
    rw [execFeed_frame h]
    exact hs
  | reset => exact txSound_of_empty .nil nofun
  | ack | begin => exact txSound_of_empty hs.wf hs.inside
  | append ds _ hn | lastAppend ds _ hn => exact hs.appendBytes ds hn
  | _ => exact hs

/-! ### The burst, the log and the bytes pending -/

theorem Change.burstAwaitsBeat {s t : State} (h : Change s t) (hs : BurstAwaitsBeat s) : BurstAwaitsBeat t := by
  cases h with
  | feed b t h =>
    rw [execFeed_frame h]
    exact hs
  | reset | lastFault | lastAppend => exact nofun
  | opened k n hn =>
    rintro b ⟨⟩
    exact Nat.pos_of_ne_zero fun h0 => hn (BitVec.eq_of_toNat_eq h0)
  | beat d bad b hb hl =>
    rintro b ⟨⟩
    exact hl
  | _ => exact hs

/-- A fault taken is in the log, and so is the code that `FAULT` keeps (R205, R209). -/
theorem FaultIsLogged.raise {s : State} (h : FaultIsLogged s) (e : FaultEntry) : FaultIsLogged (raise e s) := by
  intro _
  by_cases hn : s.fault = .none
  · exact ⟨e, by simp, by simp [firstFault, hn]⟩
  · obtain ⟨e', hmem, he⟩ := h hn
    exact ⟨e', by simp [hmem], by simp [firstFault, hn, he]⟩

theorem Change.faultIsLogged {s t : State} (h : Change s t) (hs : FaultIsLogged s) : FaultIsLogged t := by
  cases h with
  | feed b t h =>
    rw [execFeed_frame h]
    exact hs
  | reset | ack => exact fun hne => absurd rfl hne
  | fault e | strayBeat e | lastFault e => exact hs.raise e
  | _ => exact hs

theorem Change.pending {s t : State} (h : Change s t) (hs : s.txPending ≤ s.txOut.length) :
    t.txPending ≤ t.txOut.length := by
  cases h with
  | feed b t h =>
    rw [execFeed_frame h]
    exact hs
  | send =>
    refine hs.trans ?_
    simp
  | _ => exact hs

/-! ### Every step -/

theorem Change.machineInv {s t : State} (h : Change s t) (hs : MachineInv s) : MachineInv t := by
  obtain ⟨hrx, htx, hburst, hlog, hpending⟩ := machineInv_iff.mp hs
  exact machineInv_iff.mpr
    ⟨h.rxSound hrx, h.txSound htx, h.burstAwaitsBeat hburst, h.faultIsLogged hlog, h.pending hpending⟩

theorem Quiet.machineInv {s t : State} (h : Quiet s t) (hs : MachineInv s) : MachineInv t := by
  obtain ⟨hrx, htx, hburst, hlog, hpending⟩ := machineInv_iff.mp hs
  have hout : t.txOut = s.txOut := by rw [h.frame]
  have hle : t.txPending ≤ t.txOut.length := h.pending.elim (fun hp => hout ▸ hp.trans hpending) id
  rw [h.frame]
  exact machineInv_iff.mpr ⟨hrx, htx, hburst, hlog, hout ▸ hle⟩

/-- Settles O48: every change of a step keeps each part of the invariant. -/
theorem stepKeepsInvariant : Obligations.StepKeepsInvariant := by
  unfold Obligations.StepKeepsInvariant
  exact fun s t hs h => step_keeps (fun _ _ ha hq => hq.machineInv ha) (fun _ _ ha hc => hc.machineInv ha) hs h

/-! ### The frame invariant -/

/-- The frame invariant reads the inbound registers, and of the rest the free bytes' epoch alone. -/
theorem FrameInv.congr {s t : State} (h : FrameInv s) (hrx : t.rx = s.rx) (he : t.epoch = s.epoch) : FrameInv t := by
  have hbytes : rxBytes t 0 t.rx.rcnt.toNat = rxBytes s 0 s.rx.rcnt.toNat := by
    rw [hrx]
    exact rxBytes_congr (by rw [hrx]) he 0 _
  refine ⟨?_, ?_, ?_, ?_, ?_⟩
  · rw [hrx]
    exact h.act_iff_active
  · rw [hrx]
    exact h.header
  · rw [hbytes, hrx]
    exact h.folded
  · rw [hrx]
    exact h.unread
  · rw [hrx]
    exact h.full

/-- In the states with no frame held the invariant is about `ACT` alone. -/
theorem frameInv_of_noFrame {s : State} (hact : s.rx.act = actOf s.rx.state)
    (hs : s.rx.state ≠ .length ∧ s.rx.state ≠ .payload ∧ s.rx.state ≠ .complete) : FrameInv s := by
  obtain ⟨hl, hp, hc⟩ := hs
  refine ⟨?_, fun h => absurd h hl, fun h => ?_, fun h => absurd h hp, fun h => absurd h hc⟩
  · rw [hact, actOf]
    by_cases hi : s.rx.state = .idle <;> simp [hi]
  · exact (h.elim hp hc).elim

/-- The bytes received so far, one payload byte later. -/
theorem rxBytes_feedPayloadByte (b : Byte) {s : State} (hlt : s.rx.rcnt.toNat < s.rx.elen.toNat) :
    rxBytes { s with rx := feedPayloadByte b s.rx } 0 (feedPayloadByte b s.rx).rcnt.toNat =
      rxBytes s 0 s.rx.rcnt.toNat ++ [b] := by
  rw [feedPayloadByte_rcnt_toNat b hlt, rxBytes_succ, rxByte_feedPayloadByte, Nat.zero_add, if_pos rfl]
  congr 1
  refine List.map_congr_left fun k hk => ?_
  rw [rxByte_feedPayloadByte, if_neg (by have := List.mem_range.mp hk; omega)]

theorem FeedMove.frameInv {b : Byte} {s t : State} (h : FeedMove b s t) (hs : RxSound s.cfg s.rx) (hf : FrameInv s) :
    FrameInv t := by
  cases h with
  | dropped | sync1 | sync2 | direction => exact frameInv_of_noFrame rfl (by simp)
  | length => exact ⟨rfl, fun _ => ⟨rfl, rfl, rfl⟩, nofun, nofun, nofun⟩
  | opcode h =>
    obtain ⟨hsum, hcnt, hcur⟩ := hf.header h
    refine ⟨rfl, nofun, fun _ => ?_, fun _ => hcur, nofun⟩
    simp [feedLength, hsum, hcnt]
  | payload h hlt =>
    refine ⟨rfl, nofun, fun _ => ?_, fun _ => hf.unread h, nofun⟩
    rw [rxBytes_feedPayloadByte b hlt, List.foldl_append]
    exact congrArg (· ^^^ b) (hf.folded (.inl h))
  | completed h hfull =>
    exact ⟨rfl, nofun, fun _ => hf.folded (.inl h), nofun,
      fun _ => BitVec.eq_of_toNat_eq (Nat.le_antisymm hs.rcnt_le_elen hfull)⟩
  | stalled => exact hf

theorem Change.frameInv {s t : State} (h : Change s t) (hs : RxSound s.cfg s.rx) (hf : FrameInv s) : FrameInv t := by
  cases h with
  | feed b t h => exact (execFeed_move h).frameInv hs hf
  | reset | ack => exact frameInv_of_noFrame rfl (by simp)
  | cursor v n hc =>
    have hne : ∀ p, p ≠ .complete → s.rx.state ≠ p := fun p hp h => hp (h ▸ hc)
    exact ⟨hf.act_iff_active, fun h => absurd h (hne _ nofun), hf.folded, fun h => absurd h (hne _ nofun), hf.full⟩
  | _ => exact hf.congr rfl rfl

theorem Quiet.frameInv {s t : State} (h : Quiet s t) (hf : FrameInv s) : FrameInv t :=
  hf.congr (by rw [h.frame]) (by rw [h.frame])

/-- Settles O49: every change of a step keeps it, from a state that meets the machine's invariant too. -/
theorem stepKeepsChecksum : Obligations.StepKeepsChecksum := by
  unfold Obligations.StepKeepsChecksum
  intro s t hs hf h
  exact (step_keeps (P := fun u => MachineInv u ∧ FrameInv u)
    (fun _ _ ⟨ha, hfa⟩ hq => ⟨hq.machineInv ha, hq.frameInv hfa⟩)
    (fun _ _ ⟨ha, hfa⟩ hc => ⟨hc.machineInv ha, hc.frameInv (machineInv_iff.mp ha).1 hfa⟩) ⟨hs, hf⟩ h).2

/-- Settles O47: nothing is received, written, open, logged or pending. -/
theorem powerOnInvariants : Obligations.PowerOnInvariants := by
  unfold Obligations.PowerOnInvariants
  intro c
  refine ⟨machineInv_iff.mpr ⟨?_, ?_, nofun, fun h => absurd rfl h, Nat.zero_le _⟩, ?_⟩
  · exact rxSound_of_empty rfl rfl (Nat.zero_le _) nofun .nil nofun
  · exact txSound_of_empty .nil nofun
  · exact frameInv_of_noFrame rfl (by simp [State.initial])

end Sys2Proof.Machine

/-! ## What each operation leaves alone (10_state.md R36, R39; 20_memory.md R51, R52, R63; 42_tx_framer.md R170) -/

namespace Sys2Proof.Machine

/-- Every operation is FEED, RESET, ACK, one of the read port or one of the TX framer. -/
theorem instr_class (i : Instr) :
    (∃ b, i = .feed b) ∨ i = .reset ∨ i = .ack ∨ isReadPort i = true ∨ isTx i = true := by
  cases i <;> simp [isReadPort, isTx]

/-! ### FEED -/

/-- Settles O15: of the parser's transitions only a drop ends in `IDLE`. -/
theorem framingErrorKeepsRegisters : Obligations.FramingErrorKeepsRegisters := by
  unfold Obligations.FramingErrorKeepsRegisters
  intro b s t hs h hidle
  cases execFeed_move h with
  | dropped => rfl
  | stalled => exact absurd hidle hs
  | _ => cases hidle

/-- Settles O16: transition by transition. -/
theorem feedFrame : Obligations.FeedFrame := by
  unfold Obligations.FeedFrame
  intro b s t h
  refine ⟨execFeed_frame h, ?_⟩
  cases execFeed_move h with
  | dropped | sync1 | sync2 | completed | stalled =>
    exact ⟨fun _ _ => rfl, fun _ => rfl, fun _ => rfl, fun _ => ⟨rfl, rfl⟩, fun _ _ => rfl, fun _ _ _ => rfl⟩
  | direction hs =>
    exact ⟨fun _ _ => rfl, fun hne => absurd hs hne, fun _ => rfl, fun _ => ⟨rfl, rfl⟩, fun _ _ => rfl,
      fun _ _ _ => rfl⟩
  | length hs =>
    exact ⟨fun _ _ => rfl, fun _ => rfl, fun _ => rfl, fun hne => absurd hs hne, fun hne => absurd hs hne,
      fun hne => absurd hs hne⟩
  | opcode hs =>
    exact ⟨fun _ _ => rfl, fun _ => rfl, fun hne => absurd hs hne, fun _ => ⟨rfl, rfl⟩, fun _ _ => rfl,
      fun _ _ hne => absurd hs hne⟩
  | payload hs =>
    refine ⟨fun j hj => ?_, fun _ => rfl, fun _ => rfl, fun _ => ⟨rfl, rfl⟩, fun _ hne => absurd hs hne,
      fun _ hne => absurd hs hne⟩
    rw [rxByte_feedPayloadByte, if_neg (hj.resolve_left (not_not.mpr hs))]

/-! ### The read port -/

/-- The read-port operations by name. -/
theorem readPort_cases {i : Instr} (hi : isReadPort i = true) :
    i = .remaining ∨ i = .readU8 ∨ i = .readU16 ∨ i = .readU32 ∨ ∃ n, i = .advance n := by
  cases i with
  | remaining | readU8 | readU16 | readU32 | advance => simp
  | _ => cases hi

/-- Settles O25: a fault, a response, or the cursor moved within `RCNT`, where it does not wrap. -/
theorem readPortFrame : Obligations.ReadPortFrame := by
  unfold Obligations.ReadPortFrame
  intro i s t hi h
  obtain ⟨-, ⟨e, rfl⟩ | ⟨-, ⟨v, rfl⟩ | ⟨v, n, hn, rfl⟩⟩⟩ := readPort_next (readPort_cases hi) h
  · exact ⟨rfl, Nat.le_refl _, rfl⟩
  · exact ⟨rfl, Nat.le_refl _, rfl⟩
  · refine ⟨rfl, ?_, rfl⟩
    have hlt := s.rx.rcnt.isLt
    change s.rx.rcur.toNat ≤ (BitVec.ofNat 8 (s.rx.rcur.toNat + n)).toNat
    rw [BitVec.toNat_ofNat, Nat.mod_eq_of_lt (by omega)]
    exact Nat.le_add_right _ n

/-! ### The TX framer -/

/-- The TX operations that write `TXBUF`: a field, or the last beat of a burst. -/
def WritesTxBuf (i : Instr) : Prop :=
  (∃ v, i = .txWriteU8 v) ∨ (∃ v, i = .txWriteU16 v) ∨ (∃ v, i = .txWriteU32 v) ∨ ∃ d, i = .data d

/-- What a TX operation leaves in the outbound registers and `TX_OUT`. -/
inductive TxEffect (s : State) : Instr → Tx → List Byte → Prop where
  | kept (i : Instr) : TxEffect s i s.tx s.txOut
  | begun (op8 : Byte) : TxEffect s (.txBegin op8) (beginTx op8 s.tx) s.txOut
  | result (r : BitVec 2) (res : TxResult) : TxEffect s (.txSetResult r) { s.tx with tres := res } s.txOut
  | appended (i : Instr) (ds : List Byte) (hi : WritesTxBuf i)
      (hn : s.tx.tlen.toNat + ds.length ≤ s.cfg.txCapacity.toNat) : TxEffect s i (appendBytes ds s).tx s.txOut
  | sent : TxEffect s .txSend { s.tx with tarm := false } (s.txOut ++ outboundFrame s)

/-- The fields a TX operation can write at all (R170). -/
def TxWritesOnly (s t : State) : Prop :=
  t = { s with tx := t.tx, fault := t.fault, faultLog := t.faultLog, txOut := t.txOut, burst := t.burst, rsp := t.rsp }

/-- Appending no bytes changes nothing. -/
@[simp] theorem appendBytes_nil (s : State) : appendBytes [] s = s := by
  simp [appendBytes]

theorem takeBeat_effect {d d' : Byte} {bad : Bool} {b : Burst} {s t : State} (h : takeBeat d' bad b s = .next t) :
    TxWritesOnly s t ∧ TxEffect s (.data d) t.tx t.txOut := by
  rcases takeBeat_next h with ⟨-, rfl⟩ | ⟨-, ⟨e, rfl⟩ | ⟨-, -, hn, rfl⟩⟩
  · exact ⟨rfl, .kept _⟩
  · exact ⟨rfl, .kept _⟩
  · exact ⟨rfl, .appended _ _ (.inr (.inr (.inr ⟨d, rfl⟩))) hn⟩

theorem txWrite_effect {i : Instr} {s t : State}
    (hi : (∃ v, i = .txWriteU8 v) ∨ (∃ v, i = .txWriteU16 v) ∨ ∃ v, i = .txWriteU32 v) (h : exec i s = .next t) :
    TxWritesOnly s t ∧ TxEffect s i t.tx t.txOut := by
  obtain ⟨-, ⟨e, rfl⟩ | ⟨ds, -, hn, rfl⟩⟩ := txWrite_next hi h
  · exact ⟨rfl, .kept _⟩
  · exact ⟨rfl, .appended _ _ (hi.imp_right (Or.imp_right .inl)) hn⟩

theorem openBurst_effect {i : Instr} {k : BurstKind} {n : Byte} {s t : State} (h : openBurst k n s = .next t) :
    TxWritesOnly s t ∧ TxEffect s i t.tx t.txOut := by
  obtain ⟨-, ⟨-, ⟨e, rfl⟩ | ⟨-, -, rfl⟩⟩ | ⟨-, rfl⟩⟩ := openBurst_next h
  · exact ⟨rfl, .kept _⟩
  · rw [appendBytes_nil]
    exact ⟨rfl, .kept _⟩
  · exact ⟨rfl, .kept _⟩

/-- Every TX operation that answers a next state has one of those effects. -/
theorem exec_txEffect {i : Instr} {s t : State} (hi : isTx i = true) (h : exec i s = .next t) :
    TxWritesOnly s t ∧ TxEffect s i t.tx t.txOut := by
  cases i with
  | txBegin op8 =>
    obtain ⟨-, rfl⟩ := execTxBegin_next h
    exact ⟨rfl, .begun op8⟩
  | txSetResult r =>
    obtain ⟨-, ⟨e, rfl⟩ | ⟨res, -, -, rfl⟩⟩ := execTxSetResult_next h
    exacts [⟨rfl, .kept _⟩, ⟨rfl, .result r res⟩]
  | txWriteU8 | txWriteU16 | txWriteU32 => exact txWrite_effect (by simp) h
  | txWriteBytes | txWriteText => exact openBurst_effect h
  | txSend =>
    obtain ⟨-, ⟨e, rfl⟩ | ⟨-, -, rfl⟩⟩ := execTxSend_next h
    exacts [⟨rfl, .kept _⟩, ⟨rfl, .sent⟩]
  | data d =>
    rcases execData_next h with ⟨-, rfl⟩ | ⟨b, -, h⟩
    exacts [⟨rfl, .kept _⟩, takeBeat_effect h]
  | feed | reset | ack | remaining | readU8 | readU16 | readU32 | advance => cases hi

/-- No TX operation writes the receive side (R170). -/
theorem exec_tx_rx {i : Instr} {s t : State} (hi : isTx i = true) (h : exec i s = .next t) : t.rx = s.rx := by
  rw [(exec_txEffect hi h).1]

/-- Settles O38: effect by effect. -/
theorem txFrame : Obligations.TxFrame := by
  unfold Obligations.TxFrame
  intro i s t hi h
  obtain ⟨hframe, heffect⟩ := exec_txEffect hi h
  refine ⟨hframe, ?_⟩
  generalize t.tx = tx, t.txOut = out at heffect
  cases heffect with
  | kept | appended => exact ⟨fun _ => rfl, fun _ _ => rfl, fun _ _ => rfl⟩
  | begun op8 => exact ⟨fun hne => absurd rfl (hne op8), fun hne => absurd rfl (hne op8), fun hne => absurd rfl (hne op8)⟩
  | result r => exact ⟨fun _ => rfl, fun _ hne => absurd rfl (hne r), fun _ _ => rfl⟩
  | sent => exact ⟨fun _ => rfl, fun _ _ => rfl, fun _ hne => absurd rfl hne⟩

/-! ### Over all operations -/

/-- Settles O56: the read port writes of the inbound registers only `RCUR`, and the TX framer none. -/
theorem stateWrittenByFeedAckResetOnly : Obligations.StateWrittenByFeedAckResetOnly := by
  unfold Obligations.StateWrittenByFeedAckResetOnly
  intro i s t h hstate
  rcases instr_class i with hi | hi | hi | hi | hi
  · exact .inl hi
  · exact .inr (.inr hi)
  · exact .inr (.inl hi)
  · obtain ⟨hrx, -⟩ := readPortFrame i s t hi h
    rw [hrx] at hstate
    exact absurd rfl hstate
  · rw [exec_tx_rx hi h] at hstate
    exact absurd rfl hstate

/-- The same state with other turns to come. -/
def withTurns (ts : List Turn) (s : State) : State := { s with env := { s.env with turns := ts } }

/-- A step with a turn left runs that turn, spent. -/
theorem step_of_turn {s : State} {turn : Turn} {ts : List Turn} (h : s.env.turns = turn :: ts) :
    step s = runTurn turn (withTurns ts s) := by
  have hspent : dropTurn s = withTurns ts s := by rw [dropTurn, withTurns, h, List.tail_cons]
  rw [step, nextTurn, h, ← hspent]

theorem rxReady_eq_false {s : State} (hs : s.rx.state = .complete) : rxReady s = false := by
  simp [rxReady, hs]

/-- While `rx_ready` is 0 the byte stays with its source (R101; assumption 5). -/
theorem sourceTurn_stalled {s : State} (hs : s.rx.state = .complete) : sourceTurn s = .next s := by
  rw [sourceTurn, rxReady_eq_false hs]
  rfl

/-- Settles O13: the stall, and `STATE` as FEED, ACK and RESET alone write it. -/
theorem feedStallsUntilAckOrReset : Obligations.FeedStallsUntilAckOrReset := by
  unfold Obligations.FeedStallsUntilAckOrReset
  intro s hs
  have hstall : ∀ b, exec (.feed b) s = .next s := fun b => by rw [exec, execFeed, hs]
  refine ⟨rxReady_eq_false hs, hstall, fun ts hts => (step_of_turn hts).trans (sourceTurn_stalled hs), fun i t h hne => ?_⟩
  · rcases stateWrittenByFeedAckResetOnly i s t h (hs ▸ hne) with ⟨b, rfl⟩ | hi
    · rw [hstall b] at h
      cases h
      exact absurd hs hne
    · exact hi

/-- Settles O17: outside FEED and RESET neither `RXBUF` nor the epoch of its free bytes changes. -/
theorem rxBufferWrittenByFeedOnly : Obligations.RxBufferWrittenByFeedOnly := by
  unfold Obligations.RxBufferWrittenByFeedOnly
  intro i s t j hreset h hchanged
  rcases instr_class i with ⟨b, rfl⟩ | rfl | rfl | hi | hi
  · cases execFeed_move h with
    | payload hs hlt =>
      refine ⟨⟨b, rfl⟩, hs, not_not.mp fun hj => hchanged ?_, hlt⟩
      rw [rxByte_feedPayloadByte, if_neg hj]
    | _ => exact absurd rfl hchanged
  · exact absurd rfl hreset
  · obtain ⟨-, rfl⟩ := execAck_next h
    exact absurd rfl hchanged
  · obtain ⟨hrx, -, hframe⟩ := readPortFrame i s t hi h
    exact absurd (rxByte_congr (by rw [hrx]) (by rw [hframe]) j) hchanged
  · exact absurd (rxByte_congr (by rw [exec_tx_rx hi h]) (by rw [(exec_txEffect hi h).1]) j) hchanged

/-- Settles O18: of the effects only appended bytes change `TXBUF`. -/
theorem txBufferWrittenByTxWritesOnly : Obligations.TxBufferWrittenByTxWritesOnly := by
  unfold Obligations.TxBufferWrittenByTxWritesOnly
  intro i s t j hreset h hchanged
  rcases instr_class i with ⟨b, rfl⟩ | rfl | rfl | hi | hi
  · rw [execFeed_frame h] at hchanged
    exact absurd rfl hchanged
  · exact absurd rfl hreset
  · obtain ⟨-, rfl⟩ := execAck_next h
    exact absurd rfl hchanged
  · obtain ⟨-, -, hframe⟩ := readPortFrame i s t hi h
    rw [hframe] at hchanged
    exact absurd rfl hchanged
  · obtain ⟨hframe, heffect⟩ := exec_txEffect hi h
    have hepoch : t.epoch = s.epoch := by rw [hframe]
    have hbuf : t.tx.txbuf ≠ s.tx.txbuf := fun hbuf => hchanged (txByte_congr hbuf hepoch j)
    generalize htx : t.tx = tx, t.txOut = out at heffect hbuf
    cases heffect with
    | appended _ ds hi hn =>
      have hbyte : txByte t j = txByte (appendBytes ds s) j := txByte_congr (s := appendBytes ds s) (by rw [htx]) hepoch j
      rw [hbyte, txByte_appendBytes] at hchanged
      have hj : s.tx.tlen.toNat ≤ j ∧ j < s.tx.tlen.toNat + ds.length := not_not.mp fun hj => hchanged (if_neg hj)
      have hlen : (appendBytes ds s).tx.tlen.toNat = s.tx.tlen.toNat + ds.length := appendBytes_tlen hn
      exact ⟨hi, hj.1, hlen ▸ hj.2, hlen ▸ hn⟩
    | _ => exact absurd rfl hbuf

/-- No item of a port shortens or changes what `TX_OUT` holds. -/
theorem Change.txOut_prefix {s t : State} (h : Change s t) : s.txOut <+: t.txOut := by
  cases h with
  | feed b t h => rw [execFeed_frame h]
  | send => exact List.prefix_append _ _
  | _ => exact List.prefix_rfl

theorem Quiet.txOut {s t : State} (h : Quiet s t) : t.txOut = s.txOut := by rw [h.frame]

/-- Settles O37: of the effects only TX_SEND's changes `TX_OUT`, and every change of a step keeps its bytes. -/
theorem txOutAppendOnly : Obligations.TxOutAppendOnly := by
  unfold Obligations.TxOutAppendOnly
  refine ⟨fun i s t h hchanged => ?_, fun s t h => ?_⟩
  · rcases instr_class i with ⟨b, rfl⟩ | rfl | rfl | hi | hi
    · rw [execFeed_frame h] at hchanged
      exact absurd rfl hchanged
    · obtain ⟨-, rfl⟩ := execReset_next h
      exact absurd rfl hchanged
    · obtain ⟨-, rfl⟩ := execAck_next h
      exact absurd rfl hchanged
    · obtain ⟨-, -, hframe⟩ := readPortFrame i s t hi h
      rw [hframe] at hchanged
      exact absurd rfl hchanged
    · have heffect := (exec_txEffect hi h).2
      generalize t.tx = tx, t.txOut = out at heffect hchanged
      cases heffect with
      | sent => rfl
      | _ => exact absurd rfl hchanged
  · exact step_keeps (P := fun u => s.txOut <+: u.txOut) (fun _ _ ha hq => hq.txOut ▸ ha)
      (fun _ _ ha hc => ha.trans hc.txOut_prefix) List.prefix_rfl h

/-! ### The TX framer and the receive side -/

/-- The outcome of `f` does not depend on the inbound registers, and it keeps them. -/
def RxBlind (f : State → Result) : Prop :=
  ∀ (s : State) (r : Rx), f { s with rx := r } = onNext (fun t => { t with rx := r }) (f s)

theorem rxBlind_next {g : State → State} (h : ∀ s r, g { s with rx := r } = { g s with rx := r }) :
    RxBlind fun s => .next (g s) :=
  fun s r => congrArg Host.Outcome.next (h s r)

theorem rxBlind_fault {g : State → Fault} (h : ∀ s r, g { s with rx := r } = g s) : RxBlind fun s => .fault (g s) :=
  fun s r => congrArg Host.Outcome.fault (h s r)

theorem rxBlind_refused (e : Refusal) : RxBlind fun _ => .refused e := fun _ _ => rfl

/-- A branch on a condition that does not read the inbound registers. -/
theorem rxBlind_ite {p : State → Prop} [DecidablePred p] {f g : State → Result}
    (hp : ∀ s r, p { s with rx := r } ↔ p s) (hf : RxBlind f) (hg : RxBlind g) :
    RxBlind fun s => if p s then f s else g s := fun s r => by
  by_cases h : p s
  · simp only [hp, h, if_true]
    exact hf s r
  · simp only [hp, h, if_false]
    exact hg s r

section
variable {f : State → Result} (hf : RxBlind f)
include hf

theorem rxBlind_outsideBurst : RxBlind fun s => outsideBurst s (f s) :=
  rxBlind_ite (fun _ _ => Iff.rfl) (rxBlind_refused _) hf

theorem rxBlind_txGuard : RxBlind fun s => txGuard s (f s) :=
  rxBlind_ite (fun _ _ => Iff.rfl) hf (rxBlind_next fun _ _ => rfl)

theorem rxBlind_writeBound (n : Nat) : RxBlind fun s => writeBound n s (f s) :=
  rxBlind_ite (fun _ _ => Iff.rfl) (rxBlind_next fun _ _ => rfl) hf

/-- The last beat closes the burst before its operation runs. -/
theorem rxBlind_lastBeat : RxBlind fun s => asBeatResult (f { s with burst := none }) := fun s r => by
  have h := hf { s with burst := none } r
  dsimp only at h ⊢
  rw [h]
  cases f { s with burst := none } <;> rfl

end

theorem rxBlind_writeField (ds : List Byte) : RxBlind (writeField ds) :=
  rxBlind_txGuard (rxBlind_writeBound (rxBlind_next fun _ _ => rfl) _)

theorem rxBlind_openBurst (k : BurstKind) (n : Byte) : RxBlind (openBurst k n) :=
  rxBlind_outsideBurst (rxBlind_ite (fun _ _ => Iff.rfl) (rxBlind_writeField []) (rxBlind_next fun _ _ => rfl))

theorem rxBlind_takeBeat (d : Byte) (bad : Bool) (b : Burst) : RxBlind (takeBeat d bad b) :=
  rxBlind_ite (fun _ _ => Iff.rfl) (rxBlind_next fun _ _ => rfl)
    (rxBlind_lastBeat (rxBlind_ite (fun _ _ => Iff.rfl) (rxBlind_next fun _ _ => rfl) (rxBlind_writeField _)))

theorem rxBlind_execData (d : Byte) : RxBlind (execData d) := fun s r => by
  unfold execData
  dsimp only
  split
  · rfl
  · exact rxBlind_takeBeat d false _ s r

theorem rxBlind_execTxSetResult (q : BitVec 2) : RxBlind (execTxSetResult q) := by
  refine rxBlind_outsideBurst (f := fun s => match resultOfCode q with
    | none => .next (raise (.illegalOp (cmdWord 0x11 (q.setWidth 32))) s)
    | some res => txGuard s (.next (respond 0 (setResult res s)))) ?_
  cases resultOfCode q with
  | none => exact rxBlind_next fun _ _ => rfl
  | some res => exact rxBlind_txGuard (rxBlind_next fun _ _ => rfl)

theorem exec_rxBlind {i : Instr} (hi : isTx i = true) : RxBlind (exec i) := by
  cases i with
  | txBegin => exact rxBlind_outsideBurst (rxBlind_next fun _ _ => rfl)
  | txSetResult q => exact rxBlind_execTxSetResult q
  | txWriteU8 | txWriteU16 | txWriteU32 => exact rxBlind_outsideBurst (rxBlind_writeField _)
  | txWriteBytes n | txWriteText n => exact rxBlind_openBurst _ n
  | txSend =>
    exact rxBlind_outsideBurst (rxBlind_txGuard
      (rxBlind_ite (fun _ _ => Iff.rfl) (rxBlind_fault fun _ _ => rfl) (rxBlind_next fun _ _ => rfl)))
  | data d => exact rxBlind_execData d
  | feed | reset | ack | remaining | readU8 | readU16 | readU32 | advance => cases hi

/-- Settles O27: no guard, bound or effect of a TX operation names an inbound register. -/
theorem txIgnoresReceiveSide : Obligations.TxIgnoresReceiveSide := by
  unfold Obligations.TxIgnoresReceiveSide
  exact fun i s r hi => ⟨exec_rxBlind hi s r, fun t h => exec_tx_rx hi h⟩

/-- Settles O57: FEED writes the inbound registers alone and reads no others, and the TX operations neither read nor
write them. -/
theorem feedCommutesWithTx : Obligations.FeedCommutesWithTx := by
  unfold Obligations.FeedCommutesWithTx
  rintro b i s hi ⟨t, ht⟩ ⟨u, hu⟩
  have hcfg : u.cfg = s.cfg := by rw [(exec_txEffect hi hu).1]
  have htx : exec i { s with rx := t.rx } = .next { u with rx := t.rx } := by
    rw [exec_rxBlind hi, hu]
    rfl
  have hfeed : exec (.feed b) u = .next { u with rx := t.rx } := execFeed_congr (exec_tx_rx hi hu) hcfg ht
  rw [execFeed_frame ht] at ht
  simp only [execAll, ht, hu, htx, hfeed]

/-! ### No stop from a state that meets the invariant -/

/-- The result is none of the model's stops. -/
def NeverStops (k : Result) : Prop := ∀ r, k ≠ .fault r

theorem neverStops_next (t : State) : NeverStops (.next t) := nofun

theorem neverStops_refused (e : Refusal) : NeverStops (.refused e) := nofun

section
variable {s : State} {k : Result}

theorem neverStops_outsideBurst (h : NeverStops k) : NeverStops (outsideBurst s k) := by
  unfold outsideBurst
  split
  · exact neverStops_refused _
  · exact h

theorem neverStops_readPortGuard (hs : s.rx.state ≠ .reserved) (h : NeverStops k) : NeverStops (readPortGuard s k) := by
  unfold readPortGuard
  split
  · exact h
  · exact neverStops_next _

theorem neverStops_readBound (n : Nat) (h : s.rx.rcur.toNat + n ≤ s.rx.rcnt.toNat → NeverStops k) :
    NeverStops (readBound n s k) := by
  unfold readBound
  split
  · exact neverStops_next _
  · exact h (by omega)

theorem neverStops_txGuard (h : NeverStops k) : NeverStops (txGuard s k) := by
  unfold txGuard
  split
  · exact h
  · exact neverStops_next _

theorem neverStops_writeField (ds : List Byte) : NeverStops (writeField ds s) := by
  obtain ⟨t, ht⟩ := writeField_completes ds s
  rw [ht]
  exact neverStops_next t

theorem neverStops_takeBeat (d : Byte) (bad : Bool) (b : Burst) : NeverStops (takeBeat d bad b s) := by
  obtain ⟨t, ht⟩ := takeBeat_completes d bad b s
  rw [ht]
  exact neverStops_next t

/-- FEED always answers a next state: the code is legal, and a payload byte lies inside `RXBUF`. -/
theorem execFeed_completes (b : Byte) (hs : MachineInv s) : ∃ t, execFeed b s = .next t := by
  obtain ⟨-, -, hcap, hlegal⟩ := hs.cursors
  unfold execFeed
  split
  case h_6 =>
    unfold feedPayload
    split
    · exact ⟨_, if_pos (by omega)⟩
    · exact ⟨_, rfl⟩
  case h_8 h => exact absurd h hlegal
  all_goals exact ⟨_, rfl⟩

theorem neverStops_execFeed (b : Byte) (hs : MachineInv s) : NeverStops (execFeed b s) := by
  obtain ⟨t, ht⟩ := execFeed_completes b hs
  rw [ht]
  exact neverStops_next t

theorem neverStops_readField (n : Nat) (hs : MachineInv s) : NeverStops (readField n s) := by
  obtain ⟨-, hcnt, hcap, hlegal⟩ := hs.cursors
  refine neverStops_outsideBurst (neverStops_readPortGuard hlegal (neverStops_readBound n fun hn => ?_))
  rw [if_neg (by omega)]
  exact neverStops_next _

theorem neverStops_openBurst (kind : BurstKind) (n : Byte) : NeverStops (openBurst kind n s) := by
  refine neverStops_outsideBurst ?_
  split
  · exact neverStops_writeField []
  · exact neverStops_next _

theorem neverStops_exec (i : Instr) (hs : MachineInv s) : NeverStops (exec i s) := by
  have hlegal := hs.cursors.state_legal
  cases i with
  | feed b => exact neverStops_execFeed b hs
  | reset =>
    rw [exec, execReset]
    split
    · exact neverStops_next _
    · exact neverStops_refused _
  | ack | txBegin => exact neverStops_outsideBurst (neverStops_next _)
  | remaining => exact neverStops_outsideBurst (neverStops_readPortGuard hlegal (neverStops_next _))
  | readU8 | readU16 | readU32 => exact neverStops_readField _ hs
  | advance n =>
    exact neverStops_outsideBurst (neverStops_readPortGuard hlegal (neverStops_readBound _ fun _ => neverStops_next _))
  | txSetResult r =>
    refine neverStops_outsideBurst ?_
    split
    · exact neverStops_next _
    · exact neverStops_txGuard (neverStops_next _)
  | txWriteU8 | txWriteU16 | txWriteU32 => exact neverStops_outsideBurst (neverStops_writeField _)
  | txWriteBytes n | txWriteText n => exact neverStops_openBurst _ n
  | txSend =>
    refine neverStops_outsideBurst (neverStops_txGuard ?_)
    rw [if_neg (Nat.not_lt.mpr hs.writeCursor)]
    exact neverStops_next _
  | data d =>
    rw [exec, execData]
    split
    · exact neverStops_next _
    · exact neverStops_takeBeat d false _

theorem neverStops_rejectWord (w : CmdWord) : NeverStops (rejectWord w s) := by
  unfold rejectWord
  split
  · split <;> exact neverStops_next _
  · split
    · exact neverStops_takeBeat _ true _
    · exact neverStops_refused _

theorem neverStops_runItem (it : Item) (hs : MachineInv s) : NeverStops (runItem it s) := by
  cases it with
  | rst => exact neverStops_exec .reset hs
  | rx b => exact neverStops_exec (.feed b) hs
  | cmd w =>
    unfold runItem
    dsimp only
    split
    · exact neverStops_exec _ hs
    · exact neverStops_rejectWord w

theorem neverStops_takeByte (hs : MachineInv s) : NeverStops (takeByte s) := by
  unfold takeByte
  split
  · exact neverStops_next _
  · exact neverStops_runItem _ ((quiet_dropByte s).machineInv hs)

theorem neverStops_takeWord (hs : MachineInv s) : NeverStops (takeWord s) := by
  unfold takeWord
  split
  · exact neverStops_next _
  · exact neverStops_runItem _ ((quiet_dropWord s).machineInv hs)

theorem neverStops_holdEmitted (before : State) (h : NeverStops k) : NeverStops (holdEmitted before k) := by
  cases k with
  | next t => exact neverStops_next _
  | fault r => exact absurd rfl (h r)
  | refused e => exact neverStops_refused e

theorem neverStops_edgeCommand (p : Pins) (hs : MachineInv s) : NeverStops (edgeCommand p s) := by
  have h1 : MachineInv (if p.txReady then sinkTake (clearResponse s) else clearResponse s) := by
    have hclear := (quiet_clearResponse s).machineInv hs
    split
    · exact (quiet_sinkTake _).machineInv hclear
    · exact hclear
  unfold edgeCommand
  dsimp only
  split
  · exact neverStops_holdEmitted _ (neverStops_takeWord h1)
  · exact neverStops_next _

theorem neverStops_clockEdge (p : Pins) (hs : MachineInv s) : NeverStops (clockEdge p s) := by
  unfold clockEdge
  split
  · exact neverStops_runItem .rst hs
  · split
    · rename_i t ht
      have hinv := edgeCommand_keeps (fun _ _ ha hq => hq.machineInv ha) (fun _ _ ha hc => hc.machineInv ha) hs ht
      split
      · exact neverStops_takeByte hinv
      · exact neverStops_next _
    · exact absurd ‹_› (neverStops_edgeCommand p hs _)
    · exact neverStops_refused _

theorem neverStops_runTurn (turn : Turn) (hs : MachineInv s) : NeverStops (runTurn turn s) := by
  cases turn with
  | environment => exact neverStops_runItem .rst hs
  | source =>
    rw [runTurn, sourceTurn]
    split
    · exact neverStops_takeByte hs
    · exact neverStops_next _
  | consumer =>
    rw [runTurn, consumerTurn]
    split
    · exact neverStops_takeWord hs
    · exact neverStops_next _
  | edge p => exact neverStops_clockEdge p hs

end

/-- Settles O50: the invariant rules out every index and code that a stop is for, at each item of a step. -/
theorem invariantStepNeverStops : Obligations.InvariantStepNeverStops := by
  unfold Obligations.InvariantStepNeverStops
  intro s r hs
  rw [step, nextTurn]
  split
  · exact neverStops_next _ r
  · exact neverStops_runTurn _ ((quiet_dropTurn s).machineInv hs) r

end Sys2Proof.Machine

/-! ## The read port in `COMPLETE` (41_rx_payload_read.md R144 to R148; 20_memory.md R53) -/

namespace Sys2Proof.Machine

/-- The read bound lets the operation run within `RCNT`. -/
theorem readBound_within {n : Nat} {s : State} {k : Result} (hn : s.rx.rcur.toNat + n ≤ s.rx.rcnt.toNat) :
    readBound n s k = k :=
  if_neg (Nat.not_lt.mpr hn)

/-- A READ within `RCNT` and inside `RXBUF`. -/
theorem readField_ok {n : Nat} {s : State} (hb : s.burst = none) (hc : s.rx.state = .complete)
    (hn : s.rx.rcur.toNat + n ≤ s.rx.rcnt.toNat) (hcap : s.rx.rcur.toNat + n ≤ s.cfg.rxCapacity.toNat) :
    readField n s = .next (respond (leValue (rxBytes s s.rx.rcur.toNat n)) (advanceCursor n s)) := by
  rw [readField, outsideBurst_of_none hb, readPortGuard_complete hc, readBound_within hn, if_neg (Nat.not_lt.mpr hcap)]

/-- A READ within `RCNT` that leaves `RXBUF` stops at the last index it asks for (assumption 8). -/
theorem readField_outside {n : Nat} {s : State} (hb : s.burst = none) (hc : s.rx.state = .complete)
    (hn : s.rx.rcur.toNat + n ≤ s.rx.rcnt.toNat) (hcap : s.cfg.rxCapacity.toNat < s.rx.rcur.toNat + n) :
    readField n s = .fault (.rxIndexOutside (s.rx.rcur.toNat + n - 1)) := by
  rw [readField, outsideBurst_of_none hb, readPortGuard_complete hc, readBound_within hn, if_pos hcap]

/-- The cursor's next value is the 8-bit sum, which the pseudocode of R145 to R148 writes. -/
theorem respond_advanceCursor (v : Word32) (n : Nat) (s : State) :
    respond v (advanceCursor n s) =
      { s with rx := { s.rx with rcur := s.rx.rcur + BitVec.ofNat 8 n }, rsp := { valid := true, data := v, fault := false } } := by
  rw [respond, advanceCursor, BitVec.ofNat_add, BitVec.ofNat_toNat, BitVec.setWidth_eq]

/-- With `RCNT` at most `RX_CAPACITY` (R37), a READ within `RCNT` answers the field at `RCUR`. -/
theorem readField_value {n : Nat} {v : Word32} {s : State} (hb : s.burst = none) (hc : s.rx.state = .complete)
    (hcap : s.rx.rcnt.toNat ≤ s.cfg.rxCapacity.toNat) (hn : s.rx.rcur.toNat + n ≤ s.rx.rcnt.toNat)
    (hv : leValue (rxBytes s s.rx.rcur.toNat n) = v) :
    readField n s = .next
      { s with rx := { s.rx with rcur := s.rx.rcur + BitVec.ofNat 8 n }, rsp := { valid := true, data := v, fault := false } } := by
  rw [readField_ok hb hc hn (hn.trans hcap), hv, respond_advanceCursor]

/-! ### Little-endian values -/

theorem leValue_singleton (b : Byte) : leValue [b] = b.setWidth 32 := by
  simp [leValue]

/-- A byte before a field is its least significant byte. -/
theorem leValue_cons {w : Nat} {bs : List Byte} {x : BitVec w} (b : Byte) (h : leValue bs = x.setWidth 32) :
    leValue (b :: bs) = (x ++ b).setWidth 32 := by
  rw [leValue, h]
  ext i hi
  by_cases h8 : i < 8
  · simp [BitVec.getLsbD_append, h8]
  · simp [BitVec.getLsbD_append, h8, BitVec.getLsbD_of_ge b i (by omega)]

/-- Settles O22: the bytes at `RCUR` are the field, the first one least significant. -/
theorem readReturnsLittleEndianField : Obligations.ReadReturnsLittleEndianField := by
  unfold Obligations.ReadReturnsLittleEndianField
  intro s hb hc hcap b
  have hu8 : leValue (rxBytes s s.rx.rcur.toNat 1) = (b 0).setWidth 32 := leValue_singleton _
  have hu16 : leValue (rxBytes s s.rx.rcur.toNat 2) = (b 1 ++ b 0).setWidth 32 :=
    leValue_cons (b 0) (leValue_singleton (b 1))
  have hu32 : leValue (rxBytes s s.rx.rcur.toNat 4) = b 3 ++ b 2 ++ b 1 ++ b 0 :=
    (leValue_cons (b 0) (leValue_cons (b 1) (leValue_cons (b 2) (leValue_singleton (b 3))))).trans
      (BitVec.setWidth_eq _)
  exact ⟨fun hn => readField_value hb hc hcap hn hu8, fun hn => readField_value hb hc hcap hn hu16,
    fun hn => readField_value hb hc hcap hn hu32⟩

/-- Settles O21: with `RCUR` at most `RCNT` the naturals and the 8-bit registers have the same difference. -/
theorem remainingReturnsUnreadCount : Obligations.RemainingReturnsUnreadCount := by
  unfold Obligations.RemainingReturnsUnreadCount
  intro s hb hc hle
  have hv : BitVec.ofNat 32 (s.rx.rcnt.toNat - s.rx.rcur.toNat) = (s.rx.rcnt - s.rx.rcur).setWidth 32 := by
    bv_omega
  rw [exec, execRemaining, outsideBurst_of_none hb, readPortGuard_complete hc, hv]
  rfl

/-- Settles O23: the bound keeps the sum within a byte. -/
theorem advanceMovesCursor : Obligations.AdvanceMovesCursor := by
  unfold Obligations.AdvanceMovesCursor
  intro n s hb hc hn
  refine ⟨?_, by bv_omega⟩
  rw [exec, execAdvance, outsideBurst_of_none hb, readPortGuard_complete hc, readBound_within hn,
    respond_advanceCursor, BitVec.ofNat_toNat, BitVec.setWidth_eq]

/-! ## The TX framer (42_tx_framer.md R170 to R181) -/

/-- TxGuard lets the operation run while armed. -/
theorem txGuard_armed {s : State} {k : Result} (ha : s.tx.tarm = true) : txGuard s k = k := if_pos ha

/-- Settles O26: TxGuard, the first check behind the burst guard, faults. -/
theorem txNeedsArmed : Obligations.TxNeedsArmed := by
  unfold Obligations.TxNeedsArmed
  intro i s hi hb ha
  obtain ⟨k, hk⟩ := exec_needsArmed s hi
  refine ⟨_, ?_, raise_faulted .txNotArmed s, hb⟩
  rw [hk, outsideBurst_of_none hb, txGuard_notArmed ha]

/-- Settles O28: behind the burst guard TX_BEGIN checks nothing. -/
theorem txBeginStartsMessage : Obligations.TxBeginStartsMessage := by
  unfold Obligations.TxBeginStartsMessage
  exact fun op8 s hb => outsideBurst_of_none hb

/-- Settles O29: a code names the result it is the code of, and 3 names none. -/
theorem txSetResultStores : Obligations.TxSetResultStores := by
  unfold Obligations.TxSetResultStores
  intro s hb
  refine ⟨fun r res hr ha => ?_, _, outsideBurst_of_none hb, raise_faulted (.illegalOp 0x1100000003#40) s, hb⟩
  have hcode : resultOfCode r = some res ∧ res.code = r := by
    rcases hr with ⟨rfl, rfl⟩ | ⟨rfl, rfl⟩ | ⟨rfl, rfl⟩ <;> decide
  obtain ⟨hres, hcode⟩ := hcode
  refine ⟨?_, hcode⟩
  rw [exec, execTxSetResult, outsideBurst_of_none hb, hres]
  exact txGuard_armed ha

/-! ### Field writes -/

/-- A byte of a zero-extended value is the value's own. -/
theorem extractByte_setWidth {w : Nat} (v : BitVec w) {k : Nat} (hk : k + 8 ≤ 32) :
    (v.setWidth 32).extractLsb' k 8 = v.extractLsb' k 8 := by
  ext i hi
  simp
  omega

theorem leBytes_one (v : Byte) : leBytes 1 (v.setWidth 32) = [v] := by
  simp [leBytes, extractByte_setWidth, BitVec.extractLsb'_eq_self]

theorem leBytes_two (v : Half) : leBytes 2 (v.setWidth 32) = [v.extractLsb' 0 8, v.extractLsb' 8 8] := by
  simp [leBytes, List.range_succ, extractByte_setWidth]

theorem leBytes_four (v : Word32) :
    leBytes 4 v = [v.extractLsb' 0 8, v.extractLsb' 8 8, v.extractLsb' 16 8, v.extractLsb' 24 8] := rfl

/-- A field write is, behind the burst guard, the TX write of its bytes. -/
theorem exec_fieldWrite {i : Instr} {ds : List Byte} (s : State)
    (hi : (∃ v : Byte, i = .txWriteU8 v ∧ ds = [v]) ∨
      (∃ v : Half, i = .txWriteU16 v ∧ ds = [v.extractLsb' 0 8, v.extractLsb' 8 8]) ∨
      (∃ v : Word32, i = .txWriteU32 v ∧
        ds = [v.extractLsb' 0 8, v.extractLsb' 8 8, v.extractLsb' 16 8, v.extractLsb' 24 8])) :
    exec i s = outsideBurst s (writeField ds s) := by
  rcases hi with ⟨v, rfl, rfl⟩ | ⟨v, rfl, rfl⟩ | ⟨v, rfl, rfl⟩
  · rw [exec, execTxWriteU8, leBytes_one]
  · rw [exec, execTxWriteU16, leBytes_two]
  · rw [exec, execTxWriteU32, leBytes_four]

@[simp] theorem txByte_respond (v : Word32) (s : State) (j : Nat) : txByte (respond v s) j = txByte s j := rfl

/-- Settles O30: the bytes are appended at `TLEN`. -/
theorem txWriteAppendsField : Obligations.TxWriteAppendsField := by
  unfold Obligations.TxWriteAppendsField
  intro i ds s hi hb ha hn
  refine ⟨respond 0 (appendBytes ds s), ?_, rfl, appendBytes_tlen hn, fun k hk => ?_, fun j hj => ?_⟩
  · rw [exec_fieldWrite s hi, outsideBurst_of_none hb, writeField_ok ha hn]
  · rw [txByte_respond, txByte_appendBytes, if_pos (by omega), Nat.add_sub_cancel_left,
      List.getElem?_eq_getElem hk, Option.getD_some]
  · rw [txByte_respond, txByte_appendBytes, if_neg (by omega)]

/-- Settles O31: the bound faults before any byte is stored. -/
theorem txWriteOverflowStoresNothing : Obligations.TxWriteOverflowStoresNothing := by
  unfold Obligations.TxWriteOverflowStoresNothing
  intro i n s hi hb ha hn
  obtain ⟨ds, rfl, hexec⟩ : ∃ ds : List Byte, ds.length = n ∧ exec i s = outsideBurst s (writeField ds s) := by
    rcases hi with ⟨v, rfl, rfl⟩ | ⟨v, rfl, rfl⟩ | ⟨v, rfl, rfl⟩ <;> exact ⟨_, leBytes_length _ _, rfl⟩
  refine ⟨_, ?_, raise_faulted (.wrOverflow s.tx.tlen ds.length) s, hb⟩
  rw [hexec, outsideBurst_of_none hb, writeField_overflow ha hn]

/-- Settles O32: the header opens the burst or is the whole of it, and an inner beat joins it. -/
theorem burstOpensAndCollects : Obligations.BurstOpensAndCollects := by
  unfold Obligations.BurstOpensAndCollects
  intro s
  refine ⟨fun n hb hn => ⟨openBurst_opens .bytes hb hn, openBurst_opens .text hb hn⟩, fun hb ha hn => ?_,
    fun d b hb hlt => ?_⟩
  · have hempty : writeField [] s = .next (respond 0 s) := by
      rw [writeField_ok ha (by simpa using hn), appendBytes_nil]
    exact ⟨(openBurst_empty .bytes hb).trans hempty, (openBurst_empty .text hb).trans hempty⟩
  · rw [exec, execData, hb]
    dsimp only
    rw [takeBeat_inner d false s hlt, Burst.push, Bool.or_false]
    rfl

/-! ### TX_SEND -/

theorem directionToken_eq (r : TxResult) : directionToken r = if r = .error then 0x21 else 0x3E := by
  cases r <;> rfl

/-- Settles O36: both guards pass, and the frame is the wire format of the outbound registers. -/
theorem txSendEmitsFrame : Obligations.TxSendEmitsFrame := by
  unfold Obligations.TxSendEmitsFrame
  intro s hb ha hn payload frame
  have hframe : outboundFrame s = frame := by
    rw [outboundFrame, directionToken_eq]
    rfl
  refine ⟨?_, by simp [frame, payload]⟩
  rw [exec, execTxSend, outsideBurst_of_none hb, txGuard_armed ha, if_neg (Nat.not_lt.mpr hn), hframe]
  rfl

theorem execAll_cons {i : Instr} {is : List Instr} {s t : State} (h : exec i s = .next t) :
    execAll (i :: is) s = execAll is t := by
  rw [execAll, h]

/-- Settles O39: the four operations in order, each by the statement about it. -/
theorem notFoundAnswered : Obligations.NotFoundAnswered := by
  unfold Obligations.NotFoundAnswered
  intro s hb hc hdir
  have hops : answer s notFound = [.txBegin s.rx.opc, .txSetResult 2#2, .txSend, .ack] := by
    rw [answer, hdir]
    rfl
  rw [hops]
  refine ⟨_, (execAll_cons (txBeginStartsMessage s.rx.opc s hb)).trans
    ((execAll_cons ((txSetResultStores _ ?_).1 2#2 .unsupported ?_ ?_).1).trans
      ((execAll_cons (txSendEmitsFrame _ ?_ ?_ ?_).1).trans (execAll_cons ((ackReleasesFrame _).1 ?_)))),
    ?_, rfl, rfl, rfl, rfl⟩
  · exact hb
  · simp
  · rfl
  · exact hb
  · rfl
  · exact Nat.zero_le _
  · exact hb
  · simp

/-! ## Stops, RESET and the status view -/

theorem exec_read {i : Instr} {n : Nat} (s : State)
    (hi : (i = .readU8 ∧ n = 1) ∨ (i = .readU16 ∧ n = 2) ∨ (i = .readU32 ∧ n = 4)) : exec i s = readField n s := by
  rcases hi with ⟨rfl, rfl⟩ | ⟨rfl, rfl⟩ | ⟨rfl, rfl⟩ <;> rfl

/-- The read-port guard stops at code 7 (R21; assumption 7). -/
theorem readPortGuard_reserved {s : State} {k : Result} (hr : s.rx.state = .reserved) :
    readPortGuard s k = .fault .reservedStateCode := by
  simp [readPortGuard, hr]

/-- Settles O43: each stop is where the operation reads the code or the index. -/
theorem unreachableStops : Obligations.UnreachableStops := by
  unfold Obligations.UnreachableStops
  intro s
  refine ⟨fun hr b => ?_, fun hr hb i hi => ?_, fun hp hlt hcap b => ?_, fun i n hi hc hb hn hcap => ?_,
    fun hb ha hcap => ?_⟩
  · rw [exec, execFeed, hr]
  · obtain ⟨k, hk⟩ := exec_readPort s hi
    rw [hk, outsideBurst_of_none hb, readPortGuard_reserved hr]
  · rw [exec, execFeed, hp]
    exact (if_pos hlt).trans (if_neg (Nat.not_lt.mpr hcap))
  · rw [exec_read s hi, readField_outside hb hc hn hcap]
  · rw [exec, execTxSend, outsideBurst_of_none hb, txGuard_armed ha, if_pos hcap]

/-- Settles O44: RESET runs unless a send is emitting. -/
theorem resetRestoresRegisters : Obligations.ResetRestoresRegisters := by
  unfold Obligations.ResetRestoresRegisters
  refine fun s => ⟨fun hp => ⟨_, if_pos hp, rfl, rfl, rfl, rfl, rfl, rfl, rfl, rfl, rfl, ?_⟩, fun hp => if_neg hp⟩
  simp [cmdReady, hp]

/-- Settles O45: nothing is listed in either buffer. -/
theorem powerOnValues : Obligations.PowerOnValues := by
  unfold Obligations.PowerOnValues
  refine ⟨fun c => ⟨rfl, rfl, rfl, rfl, rfl, fun j => ⟨rfl, rfl⟩⟩, fun s t h => ?_⟩
  obtain ⟨-, rfl⟩ := execReset_next h
  exact ⟨rfl, fun j => ⟨rfl, rfl⟩⟩

/-- Settles O46: the codes state by state, and the other fields are the registers. -/
theorem statusViewShowsRegisters : Obligations.StatusViewShowsRegisters := by
  unfold Obligations.StatusViewShowsRegisters
  intro s v
  refine ⟨beq_iff_eq, bne_iff_ne, rfl, ?_, ?_, rfl, rfl, rfl, rfl, rfl, ?_, rfl, rfl, rfl, rfl, rfl, fun hf => hf.full⟩
  · change (s.rx.state, s.rx.state.code) ∈ _
    cases s.rx.state <;> decide
  · change (s.rx.dir, s.rx.dir.code) ∈ _
    cases s.rx.dir <;> decide
  · change (s.fault, s.fault.code) ∈ _
    cases s.fault <;> decide

end Sys2Proof.Machine

/-! ## Whole frames (40_rx_frame_parser.md R115 to R120; 42_tx_framer.md R182) -/

namespace Sys2Proof.Machine

/-- FEED of the bytes in order leads from the first state to the last, every one of them returning 1 (R112, R115). -/
inductive Receives : List Byte → State → State → Prop where
  | nil (s : State) : Receives [] s s
  | cons {b : Byte} {bs : List Byte} {s t u : State} (h : exec (.feed b) s = .next t) (ha : t.rx.act = true)
      (hr : Receives bs t u) : Receives (b :: bs) s u

theorem Receives.feedAll {bs : List Byte} {s t : State} (h : Receives bs s t) : feedAll bs s = .next t := by
  induction h with
  | nil => rfl
  | cons h _ _ ih => exact (feedAll_cons h).trans ih

theorem Receives.append {xs ys : List Byte} {s t u : State} (hx : Receives xs s t) (hy : Receives ys t u) :
    Receives (xs ++ ys) s u := by
  induction hx with
  | nil => exact hy
  | cons h ha _ ih => exact .cons h ha (ih hy)

/-- After each of the bytes `ACT` is 1. -/
theorem Receives.act_of_take {bs : List Byte} {s u : State} (h : Receives bs s u) :
    ∀ k, 0 < k → k ≤ bs.length → ∃ t, Machine.feedAll (bs.take k) s = .next t ∧ t.rx.act = true := by
  induction h with
  | nil => exact fun k h0 hk => absurd (h0.trans_le hk) (Nat.lt_irrefl 0)
  | @cons b bs s t u h ha _ ih =>
    intro k h0 hk
    match k with
    | 1 => exact ⟨t, feedAll_cons h, ha⟩
    | k + 2 =>
      obtain ⟨v, hv, hact⟩ := ih (k + 1) k.succ_pos (Nat.le_of_succ_le_succ hk)
      exact ⟨v, (feedAll_cons h).trans hv, hact⟩

/-! ### The header, the payload and the checksum byte -/

/-- The direction byte of an inbound frame (30_encoding.md R72). -/
def inboundToken (d : Direction) : Byte := if d = .command then 0x3C else 0x3E

/-- The inbound registers once a frame's header has been received. -/
def headerRx (d : Direction) (len opc : Byte) (r : Rx) : Rx :=
  { r with state := .payload, dir := d, opc := opc, elen := len, rcnt := 0, rcur := 0, csum := len ^^^ opc, act := true }

/-- The inbound registers once payload bytes have been received. -/
def payloadRx (p : List Byte) (r : Rx) : Rx :=
  { r with
    rxbuf := r.rxbuf.writeBytes r.rcnt.toNat p
    csum := p.foldl (· ^^^ ·) r.csum
    rcnt := r.rcnt + BitVec.ofNat 8 p.length }

theorem exec_feed_inboundToken {s : State} (d : Direction) (hs : s.rx.state = .sync2) :
    exec (.feed (inboundToken d)) s = .next { s with rx := { s.rx with dir := d, state := .direction, act := true } } := by
  obtain ⟨hcommand, hreply, -⟩ := RxFrameParser.feedDirectionByte (inboundToken d) s hs
  cases d with
  | command => exact hcommand rfl
  | reply => exact hreply rfl

theorem receives_header {s : State} {len : Byte} (d : Direction) (opc : Byte) (hs : s.rx.state = .idle)
    (hcap : len.toNat ≤ s.cfg.rxCapacity.toNat) :
    Receives [0x24, 0x4D, inboundToken d, len, opc] s { s with rx := headerRx d len opc s.rx } :=
  .cons (exec_feed_of_idle 0x24 hs) rfl <|
  .cons (exec_feed_of_sync1 0x4D rfl) rfl <|
  .cons (exec_feed_inboundToken d rfl) rfl <|
  .cons ((RxFrameParser.feedLengthByte len _ rfl).1 hcap) rfl <|
  .cons (RxFrameParser.feedOpcodeByte opc _ rfl) rfl (.nil _)

/-- Payload bytes received one after the other. -/
theorem payloadRx_cons {b : Byte} {p : List Byte} {r : Rx} (hs : r.state = .payload) (ha : r.act = true)
    (hlt : r.rcnt.toNat < r.elen.toNat) : payloadRx p (feedPayloadByte b r) = payloadRx (b :: p) r := by
  have hcnt : r.rcnt + 1 + BitVec.ofNat 8 p.length = r.rcnt + BitVec.ofNat 8 (p.length + 1) := by
    rw [BitVec.ofNat_add, BitVec.add_assoc, BitVec.add_comm 1]
    rfl
  rw [feedPayloadByte_of_payload b hs]
  simp only [payloadRx, rcnt_succ_exact hlt, hcnt, writeBytes_cons, List.foldl_cons, List.length_cons, ha]

theorem receives_payload (p : List Byte) {s : State} (hs : s.rx.state = .payload) (ha : s.rx.act = true)
    (hn : s.rx.rcnt.toNat + p.length ≤ s.rx.elen.toNat) (hcap : s.rx.elen.toNat ≤ s.cfg.rxCapacity.toNat) :
    Receives p s { s with rx := payloadRx p s.rx } := by
  induction p generalizing s with
  | nil =>
    have h : payloadRx [] s.rx = s.rx := by simp [payloadRx]
    rw [h]
    exact .nil s
  | cons b p ih =>
    rw [List.length_cons] at hn
    have hlt : s.rx.rcnt.toNat < s.rx.elen.toNat := by omega
    refine .cons (exec_feed_of_payload b hs hlt (hlt.trans_le hcap)) rfl ?_
    rw [← payloadRx_cons hs ha hlt]
    refine ih (s := { s with rx := feedPayloadByte b s.rx }) rfl rfl ?_ hcap
    change (feedPayloadByte b s.rx).rcnt.toNat + p.length ≤ s.rx.elen.toNat
    rw [feedPayloadByte_rcnt_toNat b hlt]
    omega

/-- The inbound registers before the checksum byte of a whole frame. -/
def framedRx (d : Direction) (len opc : Byte) (p : List Byte) (r : Rx) : Rx := payloadRx p (headerRx d len opc r)

theorem framedRx_full {d : Direction} {len opc : Byte} {p : List Byte} {r : Rx} (hlen : p.length = len.toNat) :
    (framedRx d len opc p r).rcnt = len := by
  simp [framedRx, payloadRx, headerRx, hlen]

theorem receives_headerAndPayload {s : State} {len : Byte} {p : List Byte} (d : Direction) (opc : Byte)
    (hs : s.rx.state = .idle) (hlen : p.length = len.toNat) (hcap : len.toNat ≤ s.cfg.rxCapacity.toNat) :
    Receives ([0x24, 0x4D, inboundToken d, len, opc] ++ p) s { s with rx := framedRx d len opc p s.rx } :=
  (receives_header d opc hs hcap).append
    (receives_payload p (s := { s with rx := headerRx d len opc s.rx }) rfl rfl (by simp [headerRx, hlen]) hcap)

/-- The payload received stands in `RXBUF` from index 0 on. -/
theorem rxByte_framedRx {s : State} {d : Direction} {len opc : Byte} {p : List Byte} {i : Nat} (hi : i < p.length) :
    some (rxByte { s with rx := parserTo .complete (framedRx d len opc p s.rx) } i) = p[i]? := by
  have hread : (framedRx d len opc p s.rx).rxbuf.read? i = some p[i] := by
    change (s.rx.rxbuf.writeBytes 0 p).read? i = some p[i]
    rw [read?_writeBytes, if_pos (by omega), Nat.sub_zero, List.getElem?_eq_getElem hi]
  rw [rxByte, parserTo_rxbuf, hread, Option.getD_some, List.getElem?_eq_getElem hi]

/-- Settles O51: the header, the payload and the checksum byte in turn. -/
theorem wellFormedFrameAccepted : Obligations.WellFormedFrameAccepted := by
  unfold Obligations.WellFormedFrameAccepted
  intro s len opc dir payload hs hlen hcap frame
  have hfull := framedRx_full (d := dir) (opc := opc) (r := s.rx) hlen
  have hlast : exec (.feed (payload.foldl (· ^^^ ·) (len ^^^ opc))) { s with rx := framedRx dir len opc payload s.rx } =
      .next { s with rx := parserTo .complete (framedRx dir len opc payload s.rx) } :=
    (RxFrameParser.feedChecksumByte _ { s with rx := framedRx dir len opc payload s.rx } rfl hfull).1 rfl
  have hframe : Receives frame s { s with rx := parserTo .complete (framedRx dir len opc payload s.rx) } :=
    (receives_headerAndPayload dir opc hs hlen hcap).append (.cons hlast rfl (.nil _))
  exact ⟨⟨_, hframe.feedAll, rfl, rfl, rfl, rfl, hfull, rfl, fun i hi => rxByte_framedRx (hlen ▸ hi), rfl⟩,
    hframe.act_of_take⟩

/-- Settles O52: the frame of O36, fed as a Reply (O51), or as far as the byte that is not accepted. -/
theorem roundTrip : Obligations.RoundTrip := by
  unfold Obligations.RoundTrip
  intro s r hb ha hn hr
  refine ⟨_, _, (txSendEmitsFrame s hb ha hn).1, rfl, fun hok hcap => ?_, fun herr => ?_, fun hok hover => ?_⟩
  · obtain ⟨⟨u, hu, hc, hd, ho, he, -, -, hbytes, -⟩, -⟩ :=
      wellFormedFrameAccepted r s.tx.tlen s.tx.topc .reply ((List.range s.tx.tlen.toNat).map (txByte s)) hr (by simp) hcap
    refine ⟨u, ?_, hc, hd, ho, he, fun i hi => ?_⟩
    · rw [if_neg hok]
      exact hu
    · simpa [hi] using hbytes i hi
  · rw [if_pos herr]
    exact ⟨_, (feedAll_cons (exec_feed_of_idle 0x24 hr)).trans <|
      (feedAll_cons (exec_feed_of_sync1 0x4D rfl)).trans <|
      feedAll_cons (exec_feed_of_sync2 0x21 rfl), rfl⟩
  · rw [if_neg hok]
    exact ⟨_, (feedAll_cons (exec_feed_of_idle 0x24 hr)).trans <|
      (feedAll_cons (exec_feed_of_sync1 0x4D rfl)).trans <|
      (feedAll_cons (exec_feed_inboundToken .reply rfl)).trans <|
      feedAll_cons ((RxFrameParser.feedLengthByte s.tx.tlen _ rfl).2 hover), rfl⟩

/-! ### A flipped bit -/

theorem xor_twoPow_ne (x : Byte) {bit : Nat} (hbit : bit < 8) : x ^^^ BitVec.twoPow 8 bit ≠ x := by
  intro h
  have hbitwise := congrArg (fun v : Byte => v.getLsbD bit) h
  simp [hbit] at hbitwise

/-- Settles O54: the flip changes the fold by the flipped bit, so the checksum byte sent no longer matches. -/
theorem bitFlipRejected : Obligations.BitFlipRejected := by
  unfold Obligations.BitFlipRejected
  intro s len opc opc' dir payload payload' bit hs hlen hcap hbit hflip
  have hlen' : payload'.length = len.toNat := by
    rcases hflip with ⟨-, rfl⟩ | ⟨-, i, b, -, rfl⟩
    · exact hlen
    · rw [List.length_set, hlen]
  have hfold : payload'.foldl (· ^^^ ·) (len ^^^ opc') =
      payload.foldl (· ^^^ ·) (len ^^^ opc) ^^^ BitVec.twoPow 8 bit := by
    rcases hflip with ⟨rfl, rfl⟩ | ⟨rfl, i, b, hi, rfl⟩
    · rw [← BitVec.xor_assoc, foldl_xor]
    · exact foldl_xor_set _ _ hi
  have hne : payload.foldl (· ^^^ ·) (len ^^^ opc) ≠ payload'.foldl (· ^^^ ·) (len ^^^ opc') := by
    rw [hfold]
    exact (xor_twoPow_ne _ hbit).symm
  refine ⟨_, _, (receives_headerAndPayload dir opc' hs hlen' hcap).feedAll, rfl,
    (RxFrameParser.feedChecksumByte _ { s with rx := framedRx dir len opc' payload' s.rx } rfl
      (framedRx_full hlen')).2 hne, rfl⟩

/-! ### The bound on a frame attempt -/

/-- The FEEDs after which an attempt has ended at the latest. -/
def bytesLeft (s : State) : Nat :=
  match s.rx.state with
  | .sync1 => s.cfg.rxCapacity.toNat + 5
  | .sync2 => s.cfg.rxCapacity.toNat + 4
  | .direction => s.cfg.rxCapacity.toNat + 3
  | .length => s.cfg.rxCapacity.toNat + 2
  | .payload => s.rx.elen.toNat - s.rx.rcnt.toNat + 1
  | .idle | .complete | .reserved => 0

/-- Every FEED ends the attempt or brings its end nearer. -/
theorem FeedMove.bytesLeft_lt {b : Byte} {s t : State} (h : FeedMove b s t) (hs : CursorBounds s)
    (hidle : s.rx.state ≠ .idle) (ht : t.rx.state ≠ .idle) (ht' : t.rx.state ≠ .complete) :
    bytesLeft t < bytesLeft s := by
  obtain ⟨-, -, hcap, -⟩ := hs
  cases h with
  | dropped => exact absurd rfl ht
  | sync1 h => exact absurd h hidle
  | completed => exact absurd rfl ht'
  | stalled h => exact absurd h ht'
  | sync2 h | direction h | length h => simp [bytesLeft, h]
  | opcode h =>
    simp [bytesLeft, h, feedLength]
    omega
  | payload h hlt =>
    have hcnt := feedPayloadByte_rcnt_toNat b hlt
    have hstate : (feedPayloadByte b s.rx).state = .payload := rfl
    have helen : (feedPayloadByte b s.rx).elen = s.rx.elen := rfl
    simp only [bytesLeft, h, hstate, helen, hcnt]
    omega

/-- In an attempt at least one FEED is left. -/
theorem bytesLeft_pos {s : State} (hs : CursorBounds s) (hidle : s.rx.state ≠ .idle) (hc : s.rx.state ≠ .complete) :
    0 < bytesLeft s := by
  cases h : s.rx.state with
  | idle => exact absurd h hidle
  | complete => exact absurd h hc
  | reserved => exact absurd h hs.state_legal
  | sync1 | sync2 | direction | length | payload => simp [bytesLeft, h]

theorem bytesLeft_le {s : State} (hs : CursorBounds s) : bytesLeft s ≤ s.cfg.rxCapacity.toNat + 5 := by
  obtain ⟨-, -, hcap, -⟩ := hs
  unfold bytesLeft
  split <;> omega

/-- By induction on the bytes: each ends the attempt, or leaves fewer than follow it. -/
theorem attempt_ends (bs : List Byte) {s : State} (hs : MachineInv s) (hidle : s.rx.state ≠ .idle)
    (hc : s.rx.state ≠ .complete) (hleft : bytesLeft s ≤ bs.length) :
    ∃ k t, k ≤ bs.length ∧ feedAll (bs.take k) s = .next t ∧ (t.rx.state = .idle ∨ t.rx.state = .complete) := by
  induction bs generalizing s with
  | nil => exact absurd hleft (Nat.not_le.mpr (bytesLeft_pos hs.cursors hidle hc))
  | cons b bs ih =>
    obtain ⟨t, ht⟩ := execFeed_completes b hs
    by_cases hend : t.rx.state = .idle ∨ t.rx.state = .complete
    · exact ⟨1, t, Nat.succ_le_succ (Nat.zero_le _), feedAll_cons ht, hend⟩
    · obtain ⟨hidle', hc'⟩ := not_or.mp hend
      have hlt := (execFeed_move ht).bytesLeft_lt hs.cursors hidle hidle' hc'
      rw [List.length_cons] at hleft
      obtain ⟨k, u, hk, hu, hend⟩ := ih ((Change.feed b t ht).machineInv hs) hidle' hc' (by omega)
      exact ⟨k + 1, u, Nat.succ_le_succ hk, (feedAll_cons ht).trans hu, hend⟩

/-- Settles O53: from `SYNC_1`, the furthest state, `RX_CAPACITY + 5` FEEDs are left. -/
theorem frameAttemptBounded : Obligations.FrameAttemptBounded := by
  unfold Obligations.FrameAttemptBounded
  intro s bs hs hidle hc hlen
  exact attempt_ends bs hs hidle hc (hlen ▸ bytesLeft_le hs.cursors)

/-! ### A sync sequence inside a frame attempt -/

theorem execAll_cons_next {i : Instr} {is : List Instr} {s t : State} (h : execAll (i :: is) s = .next t) :
    ∃ u, exec i s = .next u ∧ execAll is u = .next t := by
  rw [execAll] at h
  cases hi : exec i s with
  | next u => exact ⟨u, rfl, by simpa [hi] using h⟩
  | fault r => simp [hi] at h
  | refused r => simp [hi] at h

theorem feedAll_pair {a b : Byte} {s t u : State} (ha : exec (.feed a) s = .next t) (hb : exec (.feed b) t = .next u) :
    feedAll [a, b] s = .next u :=
  (feedAll_cons ha).trans (feedAll_cons hb)

/-- `SYNC_1` is entered from `IDLE` only. -/
theorem FeedMove.of_sync1 {b : Byte} {s t : State} (h : FeedMove b s t) (ht : t.rx.state = .sync1) :
    s.rx.state = .idle ∧ b = 0x24 := by
  cases h with
  | sync1 hs hb => exact ⟨hs, hb⟩
  | stalled hs => rw [hs] at ht; cases ht
  | _ => cases ht

/-- `SYNC_2` is entered from `SYNC_1` only. -/
theorem FeedMove.of_sync2 {b : Byte} {s t : State} (h : FeedMove b s t) (ht : t.rx.state = .sync2) :
    s.rx.state = .sync1 ∧ b = 0x4D := by
  cases h with
  | sync2 hs hb => exact ⟨hs, hb⟩
  | stalled hs => rw [hs] at ht; cases ht
  | _ => cases ht

/-- The checksum byte decides between `COMPLETE` and `IDLE` (R109, R110). -/
theorem feedChecksum_eq (b : Byte) (r : Rx) :
    feedChecksum b r = parserTo (if r.csum = b then .complete else .idle) r := by
  by_cases h : b = r.csum
  · rw [feedChecksum_match r h, if_pos h.symm]
  · rw [feedChecksum_mismatch r h, if_neg (Ne.symm h)]

theorem exec_feed_checksum {s : State} (b : Byte) (hs : s.rx.state = .payload) (hfull : s.rx.rcnt = s.rx.elen) :
    exec (.feed b) s = .next { s with rx := parserTo (if s.rx.csum = b then .complete else .idle) s.rx } := by
  rw [exec_feed_of_payload_full b hs (congrArg BitVec.toNat hfull).ge, feedChecksum_eq]

theorem exec_feed_of_complete {s : State} (b : Byte) (hs : s.rx.state = .complete) : exec (.feed b) s = .next s := by
  rw [exec, execFeed, hs]

/-- Settles O55: clause by clause, each byte by the rule of the state it meets. -/
theorem noResynchronisationInsideFrame : Obligations.NoResynchronisationInsideFrame := by
  unfold Obligations.NoResynchronisationInsideFrame
  intro s
  refine ⟨fun t hs h => ?_, fun hs => ?_, fun hs hcap => ?_, fun hs hcap => ?_, fun hs hlt hcap => ?_, fun hs hfull => ?_,
    fun hs hlt hcap => ?_, fun hs hlast hcap => ?_, fun hs hfull => ?_, fun hs o => ?_⟩
  · obtain ⟨u, hu, h⟩ := execAll_cons_next h
    obtain ⟨v, hv, h⟩ := execAll_cons_next h
    cases h
    refine ⟨fun ht => ?_, fun ht => ?_⟩
    · obtain ⟨-, hb⟩ := (execFeed_move hv).of_sync1 ht
      exact absurd hb (by decide)
    · obtain ⟨hu1, -⟩ := (execFeed_move hv).of_sync2 ht
      obtain ⟨hidle, -⟩ := (execFeed_move hu).of_sync1 hu1
      exact hs hidle
  · rcases hs with hs | hs
    · exact ⟨_, feedAll_pair (exec_feed_of_sync1 0x24 hs) (exec_feed_of_idle 0x4D rfl), rfl⟩
    · exact ⟨_, feedAll_pair (exec_feed_of_sync2 0x24 hs) (exec_feed_of_idle 0x4D rfl), rfl⟩
  · obtain ⟨hfits, -⟩ := RxFrameParser.feedLengthByte 0x24 s hs
    exact feedAll_pair (hfits hcap) (RxFrameParser.feedOpcodeByte 0x4D _ rfl)
  · obtain ⟨-, hover⟩ := RxFrameParser.feedLengthByte 0x24 s hs
    exact feedAll_pair (hover hcap) (exec_feed_of_idle 0x4D rfl)
  · refine ⟨_, feedAll_pair (exec_feed_of_length 0x24 hs)
      (exec_feed_of_payload 0x4D (s := { s with rx := feedLength 0x24 s.rx }) rfl hlt (hlt.trans_le hcap)),
      rfl, rfl, rfl, feedPayloadByte_rcnt _ _, ?_⟩
    rw [rxByte_feedPayloadByte]
    exact if_pos rfl
  · exact ⟨_, feedAll_pair (exec_feed_of_length 0x24 hs)
      (exec_feed_checksum 0x4D (s := { s with rx := feedLength 0x24 s.rx }) rfl hfull), rfl, rfl⟩
  · have hlt0 : s.rx.rcnt.toNat < s.rx.elen.toNat := by omega
    have hcnt := feedPayloadByte_rcnt_toNat 0x24 hlt0
    have hlt1 : (feedPayloadByte 0x24 s.rx).rcnt.toNat < s.rx.elen.toNat := by omega
    refine ⟨_, feedAll_pair (exec_feed_of_payload 0x24 hs hlt0 (hlt0.trans_le hcap))
      (exec_feed_of_payload 0x4D (s := { s with rx := feedPayloadByte 0x24 s.rx }) rfl hlt1 (hlt1.trans_le hcap)),
      rfl, rfl, ?_, ?_⟩
    · rw [rxByte_feedPayloadByte, if_neg (by simp only [hcnt]; omega), rxByte_feedPayloadByte, if_pos rfl]
    · rw [rxByte_feedPayloadByte]
      exact if_pos hcnt.symm
  · have hlt : s.rx.rcnt.toNat < s.rx.elen.toNat := by omega
    have hfull : (feedPayloadByte 0x24 s.rx).rcnt = s.rx.elen :=
      BitVec.eq_of_toNat_eq ((feedPayloadByte_rcnt_toNat 0x24 hlt).trans hlast)
    refine ⟨_, feedAll_pair (exec_feed_of_payload 0x24 hs hlt (hlt.trans_le hcap))
      (exec_feed_checksum 0x4D (s := { s with rx := feedPayloadByte 0x24 s.rx }) rfl hfull), ?_, rfl⟩
    exact (rxByte_feedPayloadByte 0x24 s _).trans (if_pos rfl)
  · by_cases hb : s.rx.csum = 0x24
    · rw [if_pos hb]
      refine ⟨_, feedAll_pair (exec_feed_checksum 0x24 hs hfull) (exec_feed_of_complete 0x4D ?_), ?_⟩
      all_goals simp [hb]
    · rw [if_neg hb]
      have hdrop := exec_feed_checksum 0x24 hs hfull
      rw [if_neg hb] at hdrop
      exact ⟨_, feedAll_pair hdrop (exec_feed_of_idle 0x4D rfl), rfl⟩
  · obtain ⟨hfits, -⟩ := RxFrameParser.feedLengthByte 0x00 s hs
    refine ⟨_, (feedAll_cons (hfits (Nat.zero_le _))).trans (feedAll_pair (RxFrameParser.feedOpcodeByte o _ rfl)
      (exec_feed_checksum o rfl rfl)), ?_, rfl, rfl⟩
    simp

end Sys2Proof.Machine

/-! ## Turns, clock edges and the response (30_encoding.md R86, R87; 60_exceptions.md R208) -/

namespace Sys2Proof.Machine

/-! ### What a turn takes -/

section
variable {s : State}

theorem rxReady_eq_true (hs : s.rx.state ≠ .complete) : rxReady s = true := bne_iff_ne.mpr hs

theorem cmdReady_eq_true (hp : s.txPending = 0) : cmdReady s = true := beq_iff_eq.mpr hp

theorem cmdReady_eq_false (hp : s.txPending ≠ 0) : cmdReady s = false := beq_eq_false_iff_ne.mpr hp

theorem sourceTurn_ready (hs : s.rx.state ≠ .complete) : sourceTurn s = takeByte s := if_pos (rxReady_eq_true hs)

theorem consumerTurn_ready (hp : s.txPending = 0) : consumerTurn s = takeWord s := if_pos (cmdReady_eq_true hp)

theorem consumerTurn_waiting (hp : s.txPending ≠ 0) : consumerTurn s = .next s := by
  rw [consumerTurn, cmdReady_eq_false hp]
  rfl

theorem takeByte_nil (h : s.env.rxIn = []) : takeByte s = .next s := by
  rw [takeByte, h]

theorem takeByte_cons {b : Byte} {bs : List Byte} (h : s.env.rxIn = b :: bs) :
    takeByte s = exec (.feed b) { s with env := { s.env with rxIn := bs } } := by
  rw [takeByte, h]
  dsimp only
  rw [dropByte, h]
  rfl

theorem takeWord_nil (h : s.env.cmdIn = []) : takeWord s = .next s := by
  rw [takeWord, h]

theorem takeWord_cons {w : CmdWord} {ws : List CmdWord} (h : s.env.cmdIn = w :: ws) :
    takeWord s = runItem (.cmd w) { s with env := { s.env with cmdIn := ws } } := by
  rw [takeWord, h]
  dsimp only
  rw [dropWord, h]
  rfl

end

/-- Settles O5: turn by turn, from what the turn takes. -/
theorem stepRunsTakenItem : Obligations.StepRunsTakenItem := by
  unfold Obligations.StepRunsTakenItem
  intro s ts
  refine ⟨fun h => ?_, fun h => step_of_turn h, fun b bs h hin hs => ?_, fun h hs => ?_, fun w ws i h hin hp hd => ?_,
    fun w ws e h hin hp hd => ?_, fun h hp => ?_, fun p h hrst => ?_⟩
  · rw [step, nextTurn, h]
  · exact (step_of_turn h).trans ((sourceTurn_ready (s := withTurns ts s) hs).trans (takeByte_cons hin))
  · refine (step_of_turn h).trans ?_
    by_cases hc : s.rx.state = .complete
    · exact sourceTurn_stalled hc
    · exact (sourceTurn_ready (s := withTurns ts s) hc).trans (takeByte_nil (hs.resolve_left hc))
  · exact (step_of_turn h).trans ((consumerTurn_ready (s := withTurns ts s) hp).trans
      ((takeWord_cons (s := withTurns ts s) hin).trans (runItem_of_decoded _ hd)))
  · have hstep : step s = rejectWord w { s with env := { s.env with cmdIn := ws, turns := ts } } :=
      (step_of_turn h).trans ((consumerTurn_ready (s := withTurns ts s) hp).trans
        ((takeWord_cons (s := withTurns ts s) hin).trans (runItem_of_rejected _ hd)))
    rw [hstep]
    refine ⟨rfl, fun hb => ?_, fun hb hop => rejectWord_insideBurst hb hop⟩
    obtain ⟨t, ht, hf, -⟩ := rejectWord_outsideBurst w (s := { s with env := { s.env with cmdIn := ws, turns := ts } }) hb
    exact ⟨t, ht, hf⟩
  · refine (step_of_turn h).trans ?_
    by_cases hp0 : s.txPending = 0
    · exact (consumerTurn_ready (s := withTurns ts s) hp0).trans (takeWord_nil (hp.resolve_left (not_not.mpr hp0)))
    · exact consumerTurn_waiting hp0
  · exact (step_of_turn h).trans (if_pos hrst)

/-! ### What a clock edge does -/

/-- The state that the command of an edge meets: the sink's handshake done and the response outputs cleared. -/
def edgeStart (p : Pins) (s : State) : State :=
  { clearResponse s with txPending := s.txPending - if p.txReady = true then 1 else 0 }

/-- An edge takes an item of the command port, whose bytes are then pending, or it takes none. -/
theorem edgeCommand_next {p : Pins} {s u : State} (h : edgeCommand p s = .next u) :
    (p.cmdValid = true ∧ s.txPending = 0 ∧
        ∃ v, takeWord (edgeStart p s) = .next v ∧ u = { v with txPending := v.txOut.length - s.txOut.length }) ∨
      (¬(p.cmdValid = true ∧ s.txPending = 0) ∧ u = edgeStart p s) := by
  have hstart : (if p.txReady then sinkTake (clearResponse s) else clearResponse s) = edgeStart p s := by
    unfold edgeStart
    cases p.txReady <;> rfl
  rw [edgeCommand, hstart] at h
  by_cases hc : p.cmdValid = true ∧ s.txPending = 0
  · obtain ⟨hv, hp⟩ := hc
    rw [hv, cmdReady_eq_true hp, Bool.and_self, if_pos rfl] at h
    cases hw : takeWord (edgeStart p s) with
    | next v =>
      rw [hw] at h
      exact .inl ⟨hv, hp, v, rfl, (Host.Outcome.next.inj h).symm⟩
    | fault r => simp [hw, holdEmitted] at h
    | refused e => simp [hw, holdEmitted] at h
  · rw [if_neg (by simpa [cmdReady] using hc)] at h
    exact .inr ⟨hc, (Host.Outcome.next.inj h).symm⟩

/-- An edge without `rst` is its command and then the byte offered, the ready signals being those before the edge. -/
theorem clockEdge_next {p : Pins} {s t : State} (hrst : p.rst = false) (h : clockEdge p s = .next t) :
    ∃ u, edgeCommand p s = .next u ∧
      ((p.rxValid = true ∧ s.rx.state ≠ .complete ∧ takeByte u = .next t) ∨
        (¬(p.rxValid = true ∧ s.rx.state ≠ .complete) ∧ t = u)) := by
  rw [clockEdge, hrst] at h
  cases hu : edgeCommand p s with
  | next u =>
    rw [hu] at h
    refine ⟨u, rfl, ?_⟩
    by_cases hc : p.rxValid = true ∧ s.rx.state ≠ .complete
    · obtain ⟨hv, hs⟩ := hc
      exact .inl ⟨hv, hs, by simpa [hv, rxReady_eq_true hs] using h⟩
    · have hc' : (p.rxValid && rxReady s) = false := by simpa [rxReady] using hc
      exact .inr ⟨hc, by simpa [hc'] using h.symm⟩
  | fault r => simp [hu] at h
  | refused e => simp [hu] at h

/-- A byte taken changes the inbound registers and the source's offers, and nothing else. -/
theorem takeByte_frame {s t : State} (h : takeByte s = .next t) :
    t = { s with rx := t.rx, env := { s.env with rxIn := t.env.rxIn } } := by
  cases hin : s.env.rxIn with
  | nil =>
    rw [takeByte_nil hin] at h
    cases h
    rfl
  | cons b bs =>
    rw [takeByte_cons hin] at h
    rw [execFeed_frame h]

/-- Every item leaves the agents' offers and turns alone. -/
theorem Change.env_eq {s t : State} (h : Change s t) : t.env = s.env := by
  cases h with
  | feed b t h => rw [execFeed_frame h]
  | _ => rfl

theorem takeWord_turns {s t : State} (h : takeWord s = .next t) : t.env.turns = s.env.turns := by
  cases hin : s.env.cmdIn with
  | nil =>
    rw [takeWord_nil hin] at h
    cases h
    rfl
  | cons w ws =>
    rw [takeWord_cons hin] at h
    rw [(runItem_change h).env_eq]

/-! ### The response outputs -/

/-- Where `k`, the result of an item taken in `s`, is a next state, its response outputs are R86's: `rsp_valid` is `valid`,
`rsp_fault` says whether a fault was recorded, and `rsp_data` is 0 unless the item reads. -/
def RespondsAs (valid reads : Bool) (s : State) (k : Result) : Prop :=
  ∀ t, k = .next t →
    t.rsp.valid = valid ∧ (t.rsp.fault = true ↔ t.faultLog ≠ s.faultLog) ∧ (reads = false → t.rsp.data = 0)

section
variable {valid reads : Bool} {s : State} {k : Result}

theorem respondsAs_completed {t : State} (hv : t.rsp.valid = valid) (hf : t.rsp.fault = false)
    (hlog : t.faultLog = s.faultLog) (hd : reads = false → t.rsp.data = 0) : RespondsAs valid reads s (.next t) := by
  rintro _ ⟨⟩
  exact ⟨hv, by simp [hf, hlog], hd⟩

theorem respondsAs_faulted {t : State} {e : FaultEntry} (hv : t.rsp.valid = valid) (hf : Faulted e s t) :
    RespondsAs valid reads s (.next t) := by
  rintro _ ⟨⟩
  exact ⟨hv, by simp [hf.rspFault, hf.log], fun _ => hf.rspData⟩

theorem respondsAs_raise (e : FaultEntry) : RespondsAs true reads s (.next (raise e s)) :=
  respondsAs_faulted rfl (raise_faulted e s)

theorem respondsAs_fault (r : Fault) : RespondsAs valid reads s (.fault r) := fun _ h => by cases h

theorem respondsAs_refused (e : Refusal) : RespondsAs valid reads s (.refused e) := fun _ h => by cases h

theorem respondsAs_outsideBurst (h : RespondsAs valid reads s k) : RespondsAs valid reads s (outsideBurst s k) :=
  fun t ht => h t (outsideBurst_next ht).2

theorem respondsAs_readPortGuard (h : RespondsAs true reads s k) : RespondsAs true reads s (readPortGuard s k) :=
  fun t ht => by
  rcases readPortGuard_next ht with ⟨-, hk⟩ | ⟨-, -, rfl⟩
  · exact h t hk
  · exact respondsAs_raise _ _ rfl

theorem respondsAs_readBound (n : Nat) (h : RespondsAs true reads s k) : RespondsAs true reads s (readBound n s k) :=
  fun t ht => by
  rcases readBound_next ht with ⟨-, hk⟩ | ⟨-, rfl⟩
  · exact h t hk
  · exact respondsAs_raise _ _ rfl

theorem respondsAs_txGuard (h : RespondsAs true reads s k) : RespondsAs true reads s (txGuard s k) := fun t ht => by
  rcases txGuard_next ht with ⟨-, hk⟩ | ⟨-, rfl⟩
  · exact h t hk
  · exact respondsAs_raise _ _ rfl

theorem respondsAs_readField (n : Nat) : RespondsAs true true s (readField n s) := by
  refine respondsAs_outsideBurst (respondsAs_readPortGuard (respondsAs_readBound n ?_))
  split
  · exact respondsAs_fault _
  · exact respondsAs_completed rfl rfl rfl nofun

theorem respondsAs_writeField (ds : List Byte) : RespondsAs true false s (writeField ds s) := fun t ht => by
  rcases writeField_next ht with ⟨e, rfl⟩ | ⟨-, -, rfl⟩
  · exact respondsAs_raise e _ rfl
  · exact respondsAs_completed rfl rfl rfl (fun _ => rfl) _ rfl

theorem respondsAs_openBurst (kind : BurstKind) (n : Byte) : RespondsAs true false s (openBurst kind n s) := by
  refine respondsAs_outsideBurst ?_
  split
  · exact respondsAs_writeField []
  · exact respondsAs_completed rfl rfl rfl fun _ => rfl

theorem respondsAs_takeBeat (d : Byte) (bad : Bool) (b : Burst) : RespondsAs false false s (takeBeat d bad b s) :=
  fun t ht => by
  rcases takeBeat_next ht with ⟨-, rfl⟩ | ⟨-, ⟨e, rfl⟩ | ⟨-, -, -, rfl⟩⟩
  · exact respondsAs_completed rfl rfl rfl (fun _ => rfl) _ rfl
  · have hf : Faulted e s (raise e { s with burst := none }) := Faulted.of_burst_rsp (raise_faulted e _)
    exact respondsAs_faulted rfl hf.on_beat _ rfl
  · exact respondsAs_completed rfl rfl rfl (fun _ => rfl) _ rfl

end

/-- A beat of a burst. -/
def isBeat : Instr → Bool
  | .data _ => true
  | _ => false

/-- The operations that return a value: REMAINING and the READs. -/
def returnsValue (i : Instr) : Bool := decide (i ∈ [Instr.remaining, .readU8, .readU16, .readU32])

theorem exec_respondsAs {i : Instr} (s : State) (hreset : i ≠ .reset) (hfeed : ∀ b, i ≠ .feed b) :
    RespondsAs (!isBeat i) (returnsValue i) s (exec i s) := by
  cases i with
  | reset => exact absurd rfl hreset
  | feed b => exact absurd rfl (hfeed b)
  | ack | txBegin => exact respondsAs_outsideBurst (respondsAs_completed rfl rfl rfl fun _ => rfl)
  | remaining =>
    exact respondsAs_outsideBurst (respondsAs_readPortGuard (respondsAs_completed rfl rfl rfl nofun))
  | readU8 | readU16 | readU32 => exact respondsAs_readField _
  | advance n =>
    exact respondsAs_outsideBurst (respondsAs_readPortGuard (respondsAs_readBound _
      (respondsAs_completed rfl rfl rfl fun _ => rfl)))
  | txSetResult r =>
    refine respondsAs_outsideBurst ?_
    split
    · exact respondsAs_raise _
    · exact respondsAs_txGuard (respondsAs_completed rfl rfl rfl fun _ => rfl)
  | txWriteU8 | txWriteU16 | txWriteU32 => exact respondsAs_outsideBurst (respondsAs_writeField _)
  | txWriteBytes n | txWriteText n => exact respondsAs_openBurst _ n
  | txSend =>
    refine respondsAs_outsideBurst (respondsAs_txGuard ?_)
    split
    · exact respondsAs_fault _
    · exact respondsAs_completed rfl rfl rfl fun _ => rfl
  | data d =>
    rw [exec, execData]
    split
    · exact respondsAs_faulted rfl (asBeat_raise_faulted _ s)
    · exact respondsAs_takeBeat d false _

theorem rejectWord_respondsAs (w : CmdWord) (s : State) :
    RespondsAs (decide (cmdOp w ≠ 0xFF)) false s (rejectWord w s) := by
  by_cases hop : cmdOp w = 0xFF
  · simp only [rejectWord, hop, if_true, ne_eq, not_true, decide_false]
    split
    · exact respondsAs_faulted rfl (asBeat_raise_faulted _ s)
    · exact respondsAs_takeBeat _ true _
  · simp only [rejectWord, hop, if_false, ne_eq, not_false_eq_true, decide_true]
    split
    · exact respondsAs_raise _
    · exact respondsAs_refused _

/-- A word decodes to a beat exactly where its `op` is 0xFF (R82). -/
theorem isBeat_of_decodeCmd {w : CmdWord} {i : Instr} (h : decodeCmd w = .ok i) :
    isBeat i = true ↔ cmdOp w = 0xFF := by
  constructor
  · intro hi
    cases i with
    | data d => exact cmdOp_of_decodeCmd_data h
    | _ => cases hi
  · intro hop
    rw [decodeCmd_of_beat hop] at h
    obtain ⟨d, rfl, -⟩ := operand_ok (by decide) h
    rfl

/-- An edge that takes no item leaves the response outputs cleared (assumption 9). -/
theorem edgeCommand_noItem {p : Pins} {s u : State} (h : edgeCommand p s = .next u)
    (hnone : p.cmdValid = false ∨ s.txPending ≠ 0 ∨ s.env.cmdIn = []) : u.rsp = { valid := false, data := 0, fault := false } := by
  rcases edgeCommand_next h with ⟨hv, hp, v, hw, rfl⟩ | ⟨-, rfl⟩
  · have hin : s.env.cmdIn = [] := (hnone.resolve_left (by simp [hv])).resolve_left (not_not.mpr hp)
    rw [takeWord_nil (s := edgeStart p s) hin] at hw
    cases hw
    rfl
  · rfl

/-- Settles O58: what an item answers, that FEED writes no response, and that an edge clears it. -/
theorem responseFollowsItem : Obligations.ResponseFollowsItem := by
  unfold Obligations.ResponseFollowsItem
  refine ⟨fun w s t h => ?_, fun b s t h => ?_, fun p s t ts hts hrst h hnone => ?_⟩
  · cases hd : decodeCmd w with
    | ok i =>
      rw [runItem_of_decoded s hd] at h
      obtain ⟨hreset, hfeed⟩ := decodeCmd_port hd
      obtain ⟨hvalid, hfault, hdata⟩ := exec_respondsAs s hreset hfeed t h
      refine ⟨?_, hfault, fun hne => ⟨i, hd, ?_⟩⟩
      · change t.rsp.valid = true ↔ _
        rw [hvalid, Bool.not_eq_true', ← Bool.not_eq_true, isBeat_of_decodeCmd hd]
      · by_contra hnot
        exact hne (hdata (decide_eq_false hnot))
    | rejected e =>
      rw [runItem_of_rejected s hd] at h
      obtain ⟨hvalid, hfault, hdata⟩ := rejectWord_respondsAs w s t h
      exact ⟨by simp [portOutputs, hvalid], hfault, fun hne => absurd (hdata rfl) hne⟩
  · rw [execFeed_frame h]
  · rw [step_of_turn hts] at h
    obtain ⟨u, hu, hbyte⟩ := clockEdge_next hrst h
    have hrsp := edgeCommand_noItem hu hnone
    change t.rsp.valid = false
    rcases hbyte with ⟨-, -, ht⟩ | ⟨-, rfl⟩
    · rw [takeByte_frame ht, hrsp]
    · rw [hrsp]

/-! ### An edge and the turns it stands for -/

/-- What is computed from the bare state alone is the same, but for what `bare` hides, in every state it is bare of. -/
theorem next_of_bare {f : State → Result} {a b v : State} (hf : ∀ s, onNext bare (f s) = onNext bare (f (bare s)))
    (hab : bare a = bare b) (h : f a = .next v) : ∃ v', f b = .next v' ∧ bare v' = bare v := by
  have hb : onNext bare (f b) = .next (bare v) := by
    rw [hf b, ← hab, ← hf a, h]
    rfl
  cases hfb : f b with
  | next v' => exact ⟨v', rfl, by simpa [hfb, onNext] using hb⟩
  | fault r => simp [hfb, onNext] at hb
  | refused e => simp [hfb, onNext] at hb

/-- A command-port item leaves `STATE` alone or clears it. -/
theorem runItem_cmd_state {w : CmdWord} {s t : State} (h : runItem (.cmd w) s = .next t) :
    t.rx.state = s.rx.state ∨ t.rx.state = .idle := by
  cases hd : decodeCmd w with
  | ok i =>
    rw [runItem_of_decoded s hd] at h
    obtain ⟨hreset, hfeed⟩ := decodeCmd_port hd
    by_cases hstate : t.rx.state = s.rx.state
    · exact .inl hstate
    · rcases stateWrittenByFeedAckResetOnly i s t h hstate with ⟨b, hi⟩ | rfl | hi
      · exact absurd hi (hfeed b)
      · obtain ⟨-, rfl⟩ := execAck_next h
        exact .inr rfl
      · exact absurd hi hreset
  | rejected e =>
    rw [runItem_of_rejected s hd] at h
    rcases rejectWord_next h with ⟨-, rfl | rfl⟩ | ⟨b, -, h⟩
    · exact .inl rfl
    · exact .inl rfl
    · obtain ⟨hframe, -⟩ := takeBeat_effect (d := 0) h
      exact .inl (by rw [hframe])

theorem takeWord_state {s t : State} (h : takeWord s = .next t) (hs : s.rx.state ≠ .complete) :
    t.rx.state ≠ .complete := by
  cases hin : s.env.cmdIn with
  | nil =>
    rw [takeWord_nil hin] at h
    cases h
    exact hs
  | cons w ws =>
    rw [takeWord_cons hin] at h
    rcases runItem_cmd_state h with ht | ht
    · rw [ht]
      exact hs
    · simp [ht]

/-- A run's next step is its next turn. -/
theorem run_turn {s u : State} {turn : Turn} {ts : List Turn} (k : Nat) (hts : s.env.turns = turn :: ts)
    (h : runTurn turn (withTurns ts s) = .next u) :
    Host.Core.run Sys2Proof.core (k + 1) s = Host.Core.run Sys2Proof.core k u := by
  have hstep : Sys2Proof.core.step s = .next u := (step_of_turn hts).trans h
  simp only [Host.Core.run, hstep]

/-- The command of an edge does what the consumer's turn does, if the edge takes an item. -/
theorem run_edgeCommand {p : Pins} {s s0 v : State} {rest : List Turn} (hbare : bare s0 = bare s)
    (hp0 : s0.txPending = 0)
    (hts : s0.env.turns = (if p.cmdValid = true ∧ s.txPending = 0 then [Turn.consumer] else []) ++ rest)
    (h : edgeCommand p s = .next v) :
    ∃ u : State, Host.Core.run Sys2Proof.core s0.env.turns.length s0 = Host.Core.run Sys2Proof.core rest.length u ∧
      u.env.turns = rest ∧ bare u = bare v ∧ (s.rx.state ≠ .complete → u.rx.state ≠ .complete) := by
  have hstate : s0.rx.state = s.rx.state := by
    change (bare s0).rx.state = (bare s).rx.state
    rw [hbare]
  rcases edgeCommand_next h with ⟨hv, hp, w, hw, rfl⟩ | ⟨hnone, rfl⟩
  · rw [if_pos ⟨hv, hp⟩] at hts
    obtain ⟨u, hu, hbu⟩ := next_of_bare (a := edgeStart p s) (b := withTurns rest s0) takeWord_bare hbare.symm hw
    refine ⟨u, ?_, takeWord_turns hu, hbu, fun hs => takeWord_state hu (hstate ▸ hs)⟩
    rw [hts]
    exact run_turn _ hts ((consumerTurn_ready (s := withTurns rest s0) hp0).trans hu)
  · rw [if_neg hnone] at hts
    exact ⟨s0, by rw [hts]; rfl, hts, hbare, fun hs => hstate ▸ hs⟩

/-- Settles O59: the command by `run_edgeCommand`, then the byte; the states agree in all that `bare` shows. -/
theorem edgeRefinesTurns : Obligations.EdgeRefinesTurns := by
  unfold Obligations.EdgeRefinesTurns
  intro p s t ts hts hrst h takes
  rw [step_of_turn hts] at h
  obtain ⟨v, hv, hbyte⟩ := clockEdge_next hrst h
  obtain ⟨u, hrun, hturns, hbu, hstate⟩ :=
    run_edgeCommand (s := withTurns ts s) (s0 := { s with txPending := 0, env := { s.env with turns := takes } })
      rfl rfl rfl hv
  have hvturns : v.env.turns = ts := by
    rcases edgeCommand_next hv with ⟨-, -, w, hw, rfl⟩ | ⟨-, rfl⟩
    · exact takeWord_turns hw
    · rfl
  obtain ⟨u', hrun', hbare, htturns⟩ : ∃ u' : State, Host.Core.run Sys2Proof.core
      (if p.rxValid = true ∧ s.rx.state ≠ .complete then [Turn.source] else []).length u = .next u' ∧
      bare t = bare u' ∧ t.env.turns = ts := by
    rcases hbyte with ⟨hrx, hs, ht⟩ | ⟨hnone, rfl⟩
    · rw [if_pos ⟨hrx, hs⟩] at hturns ⊢
      obtain ⟨u', hu', hb⟩ := next_of_bare (b := withTurns [] u) takeByte_bare hbu.symm ht
      refine ⟨u', ?_, hb.symm, ?_⟩
      · exact run_turn 0 hturns ((sourceTurn_ready (s := withTurns [] u) (hstate hs)).trans hu')
      · rw [takeByte_frame ht]
        exact hvturns
    · rw [if_neg (show ¬(p.rxValid = true ∧ s.rx.state ≠ .complete) from hnone)]
      exact ⟨u, rfl, hbu.symm, hvturns⟩
  refine ⟨u', hrun.trans hrun', ?_⟩
  have hfield {α : Type} (g : State → α) : g (bare t) = g (bare u') := congrArg g hbare
  exact ⟨hfield (·.cfg), hfield (·.rx), hfield (·.tx), hfield (·.fault), hfield (·.faultLog), hfield (·.txOut),
    hfield (·.burst), hfield (·.epoch), hfield (·.env.rxIn), hfield (·.env.cmdIn), htturns⟩

/-! ### The transport sink -/

/-- With bytes pending the wire has all of `TX_OUT` before the first of them. -/
theorem txOut_split {s : State} (hp : s.txPending ≠ 0) (hle : s.txPending ≤ s.txOut.length) :
    ∃ b rest, s.txOut = wireOut s ++ b :: rest ∧ s.txOut[s.txOut.length - s.txPending]? = some b ∧
      s.txOut.take (s.txOut.length - s.txPending + 1) = wireOut s ++ [b] := by
  have hlt : s.txOut.length - s.txPending < s.txOut.length := by omega
  refine ⟨s.txOut[s.txOut.length - s.txPending], s.txOut.drop (s.txOut.length - s.txPending + 1), ?_,
    List.getElem?_eq_getElem hlt, ?_⟩
  · rw [wireOut, ← List.drop_eq_getElem_cons hlt, List.take_append_drop]
  · rw [wireOut, List.take_append_getElem hlt]

theorem takeWord_txOut_prefix {s t : State} (h : takeWord s = .next t) : s.txOut <+: t.txOut :=
  takeWord_keeps (P := fun u => s.txOut <+: u.txOut) (fun _ _ ha hq => hq.txOut ▸ ha)
    (fun _ _ ha hc => ha.trans hc.txOut_prefix) List.prefix_rfl h

/-- Settles O60: with bytes pending the edge takes no item, so the sink's handshake is all that moves the wire. -/
theorem sendHoldsCommandPort : Obligations.SendHoldsCommandPort := by
  unfold Obligations.SendHoldsCommandPort
  intro p s t ts hts hrst h
  rw [step_of_turn hts] at h
  obtain ⟨u, hu, hbyte⟩ := clockEdge_next hrst h
  obtain ⟨htx, hout, hpending, hcmd⟩ : t.tx = u.tx ∧ t.txOut = u.txOut ∧ t.txPending = u.txPending ∧
      t.env.cmdIn = u.env.cmdIn := by
    rcases hbyte with ⟨-, -, ht⟩ | ⟨-, rfl⟩
    · rw [takeByte_frame ht]
      exact ⟨rfl, rfl, rfl, rfl⟩
    · exact ⟨rfl, rfl, rfl, rfl⟩
  have hheld : s.txPending ≠ 0 → u = edgeStart p (withTurns ts s) := fun hp =>
    (edgeCommand_next hu).elim (fun ⟨_, hp0, _⟩ => absurd hp0 hp) fun ⟨_, hu⟩ => hu
  have hsent : s.txPending = 0 → t.txPending = t.txOut.length - s.txOut.length ∧ s.txOut <+: t.txOut := fun hp => by
    rw [hpending, hout]
    rcases edgeCommand_next hu with ⟨-, -, v, hv, rfl⟩ | ⟨-, rfl⟩
    · have hprefix := takeWord_txOut_prefix hv
      exact ⟨rfl, hprefix⟩
    · exact ⟨by simp [edgeStart, withTurns, hp], List.prefix_rfl⟩
  refine ⟨fun hp => ?_, fun hp => ⟨bne_iff_ne.mpr hp, cmdReady_eq_false hp⟩, fun hp hle => ?_, fun hp => ?_⟩
  · rw [hpending, hout, hcmd, htx, hheld hp]
    exact ⟨rfl, rfl, rfl, rfl⟩
  · obtain ⟨b, rest, hsplit, hdata, htake⟩ := txOut_split hp hle
    have hvalid : txValid s = true := bne_iff_ne.mpr hp
    refine ⟨b, rest, hsplit, by simp [portOutputs, hvalid, hdata], ?_⟩
    have hwire : wireOut t = s.txOut.take (s.txOut.length - (s.txPending - if p.txReady = true then 1 else 0)) := by
      rw [wireOut, hout, hpending, hheld hp]
      rfl
    rw [hwire]
    cases p.txReady with
    | true =>
      rw [if_pos rfl, if_pos rfl, ← htake]
      congr 1
      omega
    | false => simp [wireOut]
  · obtain ⟨hcount, hprefix⟩ := hsent hp
    refine ⟨by simp [portOutputs, txValid, hp], cmdReady_eq_true hp, hcount, ?_⟩
    rw [wireOut, hcount, Nat.sub_sub_self hprefix.length_le]
    exact (List.prefix_iff_eq_take.mp hprefix).symm

end Sys2Proof.Machine
end
